-- ==== Sys2Proof/Word.lean ====
section
/-! DEFINITION. The word types of the RFTD: bytes, 32-bit words, 16-bit command words, the 128-bit accumulator and payload,
the 256-bit digest (00_scope.md R12, R13). All values are unsigned; `+`, `-`, `<<<`, `>>>`, `^^^` on these types are the
wrapping operators of R13. -/

namespace Sys2Proof

/-- One byte: a character code, a ciphertext byte, a digest byte. -/
abbrev Byte := BitVec 8

/-- A 32-bit word: a key word, half a cipher block, a response word. -/
abbrev Word := BitVec 32

/-- A 16-bit command word (30_encoding.md R80). -/
abbrev CmdWord := BitVec 16

/-- The 128-bit accumulator and the 128-bit payload (10_state.md R25, 44_bitfield_unpacker.md R160). -/
abbrev Wide := BitVec 128

/-- A 256-bit digest; byte `D[0]` stands in bits 255:248 (20_memory.md R50). -/
abbrev Digest := BitVec 256

end Sys2Proof
end

