-- ==== Sys2Proof/Syntax.lean ====
section
/-! DEFINITION. The commands of the RFTD, one constructor per row of the opcode table (30_encoding.md R82). -/

namespace Sys2Proof

/-- A command. The argument is used as it stands (R81). -/
inductive Instr where
  /-- `NOP`, 0x0000 (45_decode_read.md R187). -/
  | nop
  /-- `START`, 0x0100 (42_base62_transcoder.md R122). -/
  | start
  /-- `PUSH c`, 0x0200 + c; `c` is any 8-bit character code (R123). -/
  | push (c : Byte)
  /-- `KDF`, 0x0300 (41_key_derivation.md R102). -/
  | kdf
  /-- `DECODE`, 0x0400 (45_decode_read.md R181). -/
  | decode
  /-- `RD sel`, 0x0500 + sel; `sel` is 0 to 15 (R185). -/
  | rd (sel : Byte)
  deriving DecidableEq, Repr

end Sys2Proof
end

