-- ==== Sys2Proof/WellFormed.lean ====
section
/-! DEFINITION. Which terms of `Instr` are commands: only RD bounds its argument (30_encoding.md R81, R82). -/

namespace Sys2Proof

/-- A command of the 276 of R82: `RD` takes a select 0..15, every other constructor is a command for every argument. -/
def Instr.wellFormed : Instr → Bool
  | .nop => true
  | .start => true
  | .push _ => true
  | .kdf => true
  | .decode => true
  | .rd sel => decide (sel.toNat < 16)

end Sys2Proof
end

