-- ==== Sys2Proof/Decode.lean ====
section
/-! DEFINITION. Decoding a 16-bit command word (30_encoding.md R80 to R88), total, rejecting by name; and the encoder, written
from the same table (R82). -/

namespace Sys2Proof

/-- The outcome of decoding: a command, or one of the two reserved outcomes of R83 and R87. -/
inductive Decoded where
  /-- One of the 276 command words. -/
  | command (i : Instr)
  /-- `RESERVED_RD`: op 0x05 with arg 16..255 (R86 (b)). -/
  | reservedRd
  /-- `RESERVED`: every other word (R86 (a), (c)). -/
  | reserved
  deriving DecidableEq, Repr

/-- `op = cmd[15:8]` (R80). -/
def opField (w : CmdWord) : Byte := w.extractLsb' 8 8

/-- `arg = cmd[7:0]` (R80). -/
def argField (w : CmdWord) : Byte := w.extractLsb' 0 8

/-- `decode(w)` of R83, test by test in its order. -/
def decode (w : CmdWord) : Decoded :=
  if opField w = 0x00#8 ∧ argField w = 0#8 then .command .nop
  else if opField w = 0x01#8 ∧ argField w = 0#8 then .command .start
  else if opField w = 0x02#8 then .command (.push (argField w))
  else if opField w = 0x03#8 ∧ argField w = 0#8 then .command .kdf
  else if opField w = 0x04#8 ∧ argField w = 0#8 then .command .decode
  else if opField w = 0x05#8 ∧ (argField w).toNat < 16 then .command (.rd (argField w))
  else if opField w = 0x05#8 then .reservedRd
  else .reserved

/-- The command a decoding gives, if any. -/
def Decoded.instr? : Decoded → Option Instr
  | .command i => some i
  | .reservedRd => none
  | .reserved => none

/-- The opcode of R82. -/
def Instr.opcode : Instr → Byte
  | .nop => 0x00#8
  | .start => 0x01#8
  | .push _ => 0x02#8
  | .kdf => 0x03#8
  | .decode => 0x04#8
  | .rd _ => 0x05#8

/-- The argument field of R81, R82. -/
def Instr.argument : Instr → Byte
  | .nop => 0#8
  | .start => 0#8
  | .push c => c
  | .kdf => 0#8
  | .decode => 0#8
  | .rd sel => sel

/-- The word of a command: `op || arg` (R80). -/
def encode (i : Instr) : CmdWord := i.opcode ++ i.argument

/-- The instruction the decoder reads from the bits `w` of an instruction of `nbits` bits; every bit above `nbits` is 0. A
command word is one 16-bit word on parallel wires and has no byte order (20_memory.md R53), so bit 0 of `w` is `cmd[0]`. -/
def decodeTableWord (nbits w : Nat) : Option Instr :=
  (decode (BitVec.ofNat 16 (w % 2 ^ nbits))).instr?

end Sys2Proof
end

