-- ==== Sys2Proof/Config.lean ====
section
/-! DEFINITION. The configuration: the parameters the source fixes (00_scope.md R10), the parameters it leaves open (R11) as
constants without a body, and the free values of the model. -/

namespace Sys2Proof.Config

/-- `ROUNDS` (R10). -/
abbrev rounds : Nat := 32

/-- `DELTA` (R10, 43_block_cipher.md R140). -/
abbrev delta : Word := 0x9E3779B9#32

/-- `SHL` (R10). -/
abbrev shl : Nat := 4

/-- `SHR` (R10). -/
abbrev shr : Nat := 5

/-- `RADIX` (R10, 42_base62_transcoder.md R124). -/
abbrev radix : Nat := 62

/-- The exclusive bound of a token's value: `TOKEN_BYTES = 16` bytes (R10, R124). -/
abbrev tokenBound : Nat := 2 ^ 128

/-- `LAYOUT` (R10, 44_bitfield_unpacker.md R161, R166): the field widths, most significant field first: phone, settlement
amount, pending amount, bank code, nbfc code. Offsets and masks are derived from it. -/
def layout : List Nat := [40, 30, 30, 10, 10]

/-- `SANITY_CEILING` (R11, 44_bitfield_unpacker.md R163). -/
abbrev sanityCeiling : Nat := 100000000

/-- `ALPHABET` with `CHARCODE` (R10, R11): the codes of `a`..`z`, `A`..`Z`, `0`..`9` in that order; a symbol's value is its
position. -/
def alphabet : List Byte :=
  (List.range 26).map (fun i => BitVec.ofNat 8 (0x61 + i)) ++ (List.range 26).map (fun i => BitVec.ofNat 8 (0x41 + i)) ++
    (List.range 10).map (fun i => BitVec.ofNat 8 (0x30 + i))

/-- `SECRET` (R11, 41_key_derivation.md R101): a build-time byte string whose value is not in the source. -/
opaque secret : List Byte

/-- `HASH256` (R11, R101): a total function of the message bytes alone, of which nothing else is assumed. -/
opaque hash256 : List Byte → Digest

/-- FREE VALUE (log entry 4): what the cipher working registers hold after the n-th successful DECODE (10_state.md R29: "their
values after DECODE are not defined by this spec"). 103 = 32 + 32 + 32 + 6 + 1 bits for `V0`, `V1`, `SUM`, `RND`, `BLK`. -/
opaque freeWorkBits : Nat → BitVec 103

end Sys2Proof.Config
end

