-- ==== Sys2Proof/Machine/State.lean ====
section
/-! DEFINITION. The state of the RFTD as plain data (10_state.md R20), the ports it is driven through (20_memory.md R50), the
reasons a step can stop, and the state after reset (10_state.md R39, 70_reset_and_hazards.md R250). -/

namespace Sys2Proof.Machine

/-- The fault reasons: none. No condition stops the block (60_exceptions.md R224, R225; 30_encoding.md R87: "The block does not
trap, stall or reset"), so no step answers with a fault (safe: there is nothing to raise). -/
inductive Fault where
  deriving DecidableEq, Repr

/-- The refusal reasons. -/
inductive Refusal where
  /-- Raised by `exec` for an instruction that has no meaning yet, with its mnemonic. Safe: the machine stops where the
  hardware goes on. No arm of `exec` raises it now. -/
  | notModelled (mnemonic : String)
  deriving DecidableEq, Repr

/-- The errors of the source's taxonomy (60_exceptions.md R220 to R223). DECODE reports the first three; `noTokenPresent` is
the host's. -/
inductive DecodeError where
  | invalidTokenCharacter
  | tokenTooLong
  | environmentUnavailable
  | noTokenPresent
  deriving DecidableEq, Repr

/-- Four 32-bit words, `w0` the most significant: the key words `K[0..3]` (10_state.md R21), the plaintext words `PT[0..3]`
(R30), the ciphertext words `C[0..3]` (43_block_cipher.md R144). -/
structure Words4 where
  w0 : Word
  w1 : Word
  w2 : Word
  w3 : Word
  deriving DecidableEq, Repr

/-- The four zero words. -/
def Words4.zero : Words4 := ⟨0#32, 0#32, 0#32, 0#32⟩

/-- The cipher working registers `V0`, `V1`, `SUM`, `RND`, `BLK` (10_state.md R29). -/
structure CipherRegs where
  /-- `V0`: the more significant half of the cipher block in work. -/
  v0 : Word
  /-- `V1`: the less significant half. -/
  v1 : Word
  /-- `SUM`: the round constant accumulator. -/
  sum : Word
  /-- `RND`: the round count, 0 to 32. -/
  rnd : BitVec 6
  /-- `BLK`: which of the two cipher blocks is in work. -/
  blk : BitVec 1
  deriving DecidableEq, Repr

/-- All working registers zero: the value the model names for reset (log entry 3). -/
def CipherRegs.zero : CipherRegs := ⟨0#32, 0#32, 0#32, 0#6, 0#1⟩

/-- The result registers that a failed DECODE, START and reset clear together (10_state.md R30, R31, R34). -/
structure Results where
  /-- `PT[0..3]`. -/
  pt : Words4
  /-- `PAD`. -/
  pad : BitVec 8
  /-- `PHONE`. -/
  phone : BitVec 40
  /-- `SETTLE`. -/
  settle : BitVec 30
  /-- `PENDING`. -/
  pending : BitVec 30
  /-- `BANK`. -/
  bank : BitVec 10
  /-- `NBFC`. -/
  nbfc : BitVec 10
  /-- `PADNZ`: the pad is not zero. -/
  padnz : Bool
  /-- `SHI`: the settlement amount exceeds the ceiling. -/
  shi : Bool
  /-- `PHI`: the pending amount exceeds the ceiling. -/
  phi : Bool
  deriving DecidableEq, Repr

/-- The empty result: every result register and advisory flag 0 (10_state.md R32). -/
def Results.empty : Results := ⟨Words4.zero, 0#8, 0#40, 0#30, 0#30, 0#10, 0#10, false, false, false⟩

/-- `PENDCMD` (10_state.md R24): which command is suspended; `kdf` is the bit 0, `decode` the bit 1. -/
inductive PendCmd where
  | kdf
  | decode
  deriving DecidableEq, Repr

/-- An answer of the hash primitive on the hash port (20_memory.md R50, R64). -/
inductive HashAnswer where
  /-- `hrsp_ok = 1` with `hrsp_digest = d`. -/
  | digest (d : Digest)
  /-- `hrsp_ok = 0`: the primitive is unavailable. -/
  | unavailable
  deriving DecidableEq, Repr

/-- One move of one agent (00_scope.md R9; log entry 5). -/
inductive Move where
  /-- The host offers its next command word. -/
  | host
  /-- The hash primitive presents an answer, asked for or not; a suspended command takes it as the answer to its request. -/
  | hash (a : HashAnswer)
  /-- The hash primitive presents an answer to a request issued before the last reset (70_reset_and_hazards.md R250;
  log entry 16). -/
  | lateHash (a : HashAnswer)
  /-- `rst` is asserted. -/
  | rst
  deriving DecidableEq, Repr

/-- The state: the block's elements of 10_state.md R20, the ports, and the model's own counter `freeCount`. -/
structure State where
  /-- `K[0..3]`; read by no rule while `KEYV = 0` (R21). -/
  k : Words4
  /-- `KEYV`: the key is held (R22). -/
  keyv : Bool
  /-- `FATAL`: the hash primitive reported unavailable (R23). -/
  fatal : Bool
  /-- `HPEND`: a hash request is issued and not yet answered (R24). -/
  hpend : Bool
  /-- `PENDCMD`: the suspended command (R24). -/
  pendcmd : PendCmd
  /-- `ACC`: the accumulator (R25). -/
  acc : Wide
  /-- `OVF` (R26). -/
  ovf : Bool
  /-- `BADC` (R27). -/
  badc : Bool
  /-- `V0`, `V1`, `SUM`, `RND`, `BLK` (R29). -/
  work : CipherRegs
  /-- `PT`, the fields and the advisory flags (R30, R31, R34). -/
  res : Results
  /-- `VALID` (R32). -/
  valid : Bool
  /-- `ERR` (R33). -/
  err : BitVec 3
  /-- `CMDERR` (R35). -/
  cmderr : Bool
  /-- Command port: the words the host has still to issue, first to last (20_memory.md R62). -/
  cmds : List CmdWord
  /-- Response port: the words delivered so far, oldest first (20_memory.md R63). -/
  rsps : List Word
  /-- Hash port: how many requests were issued since reset (20_memory.md R64). -/
  hreqs : Nat
  /-- Which agent moves next, and then; when the list is used up, the host (log entry 5). -/
  moves : List Move
  /-- The model's own: the index of the next free value of the cipher working registers (log entry 4). -/
  freeCount : Nat
  deriving DecidableEq, Repr

/-- The state after reset (R39, R250). `k` and `work` have no value in the spec: log entries 2 and 3 name zero. -/
def State.reset : State where
  k := Words4.zero
  keyv := false
  fatal := false
  hpend := false
  pendcmd := .kdf
  acc := 0#128
  ovf := false
  badc := false
  work := CipherRegs.zero
  res := Results.empty
  valid := false
  err := 0#3
  cmderr := false
  cmds := []
  rsps := []
  hreqs := 0
  moves := []
  freeCount := 0

/-- What one step answers. -/
abbrev StepResult := Host.Outcome State Fault Refusal

end Sys2Proof.Machine
end

