-- ==== Sys2Proof/Machine/Flags.lean ====
section
/-! DEFINITION. The flag computations: error codes (60_exceptions.md R220 to R223), the advisory flags
(44_bitfield_unpacker.md R163), the overflow test (42_base62_transcoder.md R123), and the STATUS word (10_state.md R37). -/

namespace Sys2Proof.Machine

/-- `code(e)` (R220 to R223). The hardware never writes the code 4. -/
def DecodeError.code : DecodeError → BitVec 3
  | .invalidTokenCharacter => 1#3
  | .tokenTooLong => 2#3
  | .environmentUnavailable => 3#3
  | .noTokenPresent => 4#3

/-- `PADNZ` (R163). -/
def padNonZero (pad : BitVec 8) : Bool := decide (pad ≠ 0#8)

/-- `SHI` and `PHI` (R163): strictly above the ceiling. -/
def aboveCeiling (amount : BitVec 30) : Bool := decide (amount.toNat > Config.sanityCeiling)

/-- The test that sets `OVF` (R123). -/
def overflows (t : Nat) : Bool := decide (t ≥ Config.tokenBound)

/-- The STATUS word (R37), bit 31 first: 20 zero bits, `CMDERR`, `PHI`, `SHI`, `PADNZ`, `OVF`, `BADC`, `FATAL`, `ERR`, `VALID`,
`KEYV`. -/
def statusWord (s : State) : Word :=
  0#20 ++ BitVec.ofBool s.cmderr ++ BitVec.ofBool s.res.phi ++ BitVec.ofBool s.res.shi ++ BitVec.ofBool s.res.padnz ++
    BitVec.ofBool s.ovf ++ BitVec.ofBool s.badc ++ BitVec.ofBool s.fatal ++ s.err ++ BitVec.ofBool s.valid ++
    BitVec.ofBool s.keyv

end Sys2Proof.Machine
end

