-- ==== Sys2Proof/Machine/Ops.lean ====
section
/-! DEFINITION. The named operations over the state: the ciphertext view and its one read (20_memory.md R52), the response port
(R63), the failure path that is all an error does (60_exceptions.md R224), clearing, the record of a reserved word
(30_encoding.md R87), and reset (70_reset_and_hazards.md R250). There is no return from an error (60_exceptions.md R227). -/

namespace Sys2Proof.Machine

/-- `CT[i] = ACC[127 − 8i : 120 − 8i]`, i = 0..15 (R52): a view of the accumulator. -/
def ctByte (acc : Wide) (i : Nat) : Byte := acc.extractLsb' (120 - 8 * i) 8

/-- `MemRead(a, n) = CT[a] || … || CT[a+n−1]` as an unsigned integer (R52, 00_scope.md R15), for a + n ≤ 16. -/
def memRead (acc : Wide) (a : Nat) : Nat → Nat
  | 0 => 0
  | n + 1 => memRead acc a n * 256 + (ctByte acc (a + n)).toNat

/-- The ciphertext word `C[j] = MemRead(4j, 4)`, j = 0..3 (43_block_cipher.md R144). -/
def ctWord (acc : Wide) (j : Nat) : Word := BitVec.ofNat 32 (memRead acc (4 * j) 4)

/-- The four ciphertext words. -/
def ctWords (acc : Wide) : Words4 := ⟨ctWord acc 0, ctWord acc 1, ctWord acc 2, ctWord acc 3⟩

/-- `respond(v)` (00_scope.md R15): deliver one word on the response port; the host always takes it (R63). -/
def State.respond (v : Word) (s : State) : State := { s with rsps := s.rsps ++ [v] }

/-- `raise e`: the failure path of 60_exceptions.md R224, the only thing an error does. Nothing is saved and control goes
nowhere; every element it does not name keeps its value. -/
def State.raise (e : DecodeError) (s : State) : State := { s with res := Results.empty, valid := false, err := e.code }

/-- A new token: the whole of START's effect (42_base62_transcoder.md R122). -/
def State.clearToken (s : State) : State :=
  { s with acc := 0#128, ovf := false, badc := false, res := Results.empty, valid := false, err := 0#3 }

/-- `CMDERR <- 1` (30_encoding.md R87). -/
def State.markCmdErr (s : State) : State := { s with cmderr := true }

/-- The effect of a reserved word with op ≠ 0x05 (R87). -/
def State.reservedWord (s : State) : State := s.markCmdErr

/-- The effect of a reserved RD word (R87): the response 0, and `CMDERR`. -/
def State.reservedRdWord (s : State) : State := s.markCmdErr.respond 0#32

/-- `rst` in a running machine (R250): every element of the block goes to its reset value, a suspension ends. What belongs to
the other agents stays: the host's remaining words, the responses it has received, the moves still to come (log entry 10). -/
def State.resetBlock (s : State) : State :=
  { State.reset with cmds := s.cmds, rsps := s.rsps, moves := s.moves, freeCount := s.freeCount }

/-- `cmd_ready` (20_memory.md R57): no command is taken while `HPEND = 1`. -/
def State.cmdReady (s : State) : Bool := !s.hpend

/-- `hreq_msg` (20_memory.md R50): the message of every hash request. -/
def hreqMsg : List Byte := Config.secret

end Sys2Proof.Machine
end

