-- ==== Sys2Proof/Machine/Cipher.lean ====
section
/-! DEFINITION. The block cipher: DecryptBlock over the working registers (43_block_cipher.md R140 to R143), the two-block split
(R144, R145), and the derived inverse EncryptBlock (R147), which is not in the hardware and serves claims only. -/

namespace Sys2Proof.Machine

/-- The three-term mix of one half round (R141, R142): `((v <<32 4) +32 ka) XOR (v +32 sum) XOR ((v >>32 5) +32 kb)`. -/
def cipherMix (v sum ka kb : Word) : Word :=
  ((v <<< Config.shl) + ka) ^^^ (v + sum) ^^^ ((v >>> Config.shr) + kb)

/-- The working registers at the start of a cipher block: `SUM = DELTA * 32 mod 2^32`, `RND = 0` (R141). -/
def cipherLoad (blk : BitVec 1) (v0 v1 : Word) : CipherRegs :=
  ⟨v0, v1, Config.delta * BitVec.ofNat 32 Config.rounds, 0#6, blk⟩

/-- One decryption round (R141): `V1` from the old `V0`, then `V0` from the new `V1`, then `SUM`; `RND` counts. -/
def decryptRound (key : Words4) (r : CipherRegs) : CipherRegs :=
  let v1 := r.v1 - cipherMix r.v0 r.sum key.w2 key.w3
  let v0 := r.v0 - cipherMix v1 r.sum key.w0 key.w1
  ⟨v0, v1, r.sum - Config.delta, r.rnd + 1#6, r.blk⟩

/-- `n` rounds. -/
def decryptRounds (key : Words4) : Nat → CipherRegs → CipherRegs
  | 0, r => r
  | n + 1, r => decryptRounds key n (decryptRound key r)

/-- `DecryptBlock(v0, v1, key)` (R141), on cipher block `blk`; the result does not depend on `blk`. -/
def decryptBlockOn (blk : BitVec 1) (v0 v1 : Word) (key : Words4) : Word × Word :=
  let r := decryptRounds key Config.rounds (cipherLoad blk v0 v1)
  (r.v0, r.v1)

/-- `DecryptBlock(v0, v1, key)` (R141). -/
def decryptBlock (v0 v1 : Word) (key : Words4) : Word × Word := decryptBlockOn 0#1 v0 v1 key

/-- The two-block split (R144): block one is `C[0]`, `C[1]`, block two `C[2]`, `C[3]`; `blockCount = 2`, no chaining, one key
(R145). -/
def decryptWords (c key : Words4) : Words4 :=
  let one := decryptBlockOn 0#1 c.w0 c.w1 key
  let two := decryptBlockOn 1#1 c.w2 c.w3 key
  ⟨one.1, one.2, two.1, two.2⟩

/-- The working registers after a DECODE that ran the cipher: values the spec does not define (10_state.md R29), so the n-th free
value (log entry 4). `RND` keeps the bound R29 gives it, 0 to 32. -/
def freeCipherRegs (n : Nat) : CipherRegs :=
  let b := Config.freeWorkBits n
  ⟨b.extractLsb' 71 32, b.extractLsb' 39 32, b.extractLsb' 7 32, BitVec.ofNat 6 ((b.extractLsb' 1 6).toNat % 33),
    b.extractLsb' 0 1⟩

/-- One encryption round (R147, NOT in the hardware): the statements of `decryptRound` undone in reverse order, on the same
record of halves, constant and count. -/
def encryptRound (key : Words4) (r : CipherRegs) : CipherRegs :=
  let sum := r.sum + Config.delta
  let v0 := r.v0 + cipherMix r.v1 sum key.w0 key.w1
  let v1 := r.v1 + cipherMix v0 sum key.w2 key.w3
  ⟨v0, v1, sum, r.rnd - 1#6, r.blk⟩

/-- `n` encryption rounds (R147). -/
def encryptRounds (key : Words4) : Nat → CipherRegs → CipherRegs
  | 0, r => r
  | n + 1, r => encryptRounds key n (encryptRound key r)

/-- `EncryptBlock(v0, v1, key)` (R147, NOT in the hardware): `sum` starts at 0. -/
def encryptBlock (v0 v1 : Word) (key : Words4) : Word × Word :=
  let r := encryptRounds key Config.rounds ⟨v0, v1, 0#32, 0#6, 0#1⟩
  (r.v0, r.v1)

/-- Both blocks encrypted with one key (R147, NOT in the hardware). -/
def encryptWords (p key : Words4) : Words4 :=
  let one := encryptBlock p.w0 p.w1 key
  let two := encryptBlock p.w2 p.w3 key
  ⟨one.1, one.2, two.1, two.2⟩

end Sys2Proof.Machine
end

