-- ==== Sys2Proof/Machine/Slicer.lean ====
section
/-! DEFINITION. The 128-bit bit-field slicer: the payload (44_bitfield_unpacker.md R160), slicing by a width list (R161, R166),
Unpack (R162) and the advisory flags (R163). -/

namespace Sys2Proof.Machine

/-- The four words as one 128-bit integer, `w0` most significant (R160). -/
def Words4.payload (p : Words4) : Wide := p.w0 ++ p.w1 ++ p.w2 ++ p.w3

/-- The four words of a 128-bit integer, most significant first: the inverse of `payload`. -/
def Words4.ofPayload (x : Wide) : Words4 := ⟨x.extractLsb' 96 32, x.extractLsb' 64 32, x.extractLsb' 32 32, x.extractLsb' 0 32⟩

/-- `off_i = w[i+1] + ... + w[m-1]` (R161). -/
def fieldOffset (layout : List Nat) (i : Nat) : Nat := (layout.drop (i + 1)).sum

/-- `w[i]` (R161); 0 where the layout has no such field. -/
def fieldWidth (layout : List Nat) (i : Nat) : Nat := layout.getD i 0

/-- `field_i = (P >> off_i) & (2^w[i] - 1)` (R161). -/
def fieldOf (layout : List Nat) (p : Nat) (i : Nat) : Nat := (p >>> fieldOffset layout i) &&& (2 ^ fieldWidth layout i - 1)

/-- `pad = P >> (w[0] + ... + w[m-1])` (R161). -/
def padOf (layout : List Nat) (p : Nat) : Nat := p >>> layout.sum

/-- `Unpack` and the advisory flags (R162, R163): all result registers from the four plaintext words, by the layout of the
configuration. The register widths fit the canonical layout (R166). -/
def unpack (pt : Words4) : Results :=
  let p := pt.payload.toNat
  let pad := BitVec.ofNat 8 (padOf Config.layout p)
  let settle := BitVec.ofNat 30 (fieldOf Config.layout p 1)
  let pending := BitVec.ofNat 30 (fieldOf Config.layout p 2)
  { pt := pt
    pad := pad
    phone := BitVec.ofNat 40 (fieldOf Config.layout p 0)
    settle := settle
    pending := pending
    bank := BitVec.ofNat 10 (fieldOf Config.layout p 3)
    nbfc := BitVec.ofNat 10 (fieldOf Config.layout p 4)
    padnz := padNonZero pad
    shi := aboveCeiling settle
    phi := aboveCeiling pending }

/-- The packed payload of field values (the inverse of R162, NOT in the hardware; it serves claims). -/
def pack (pad : BitVec 8) (phone : BitVec 40) (settle pending : BitVec 30) (bank nbfc : BitVec 10) : Wide :=
  pad ++ phone ++ settle ++ pending ++ bank ++ nbfc

end Sys2Proof.Machine
end

