-- ==== Sys2Proof/Machine/Operands.lean ====
section
/-! DEFINITION. The two operand forms: the character code of PUSH (42_base62_transcoder.md R120, R121) and the select of RD
(20_memory.md R61). -/

namespace Sys2Proof.Machine

/-- `digit(c)` (R121): the alphabet value of a character code, or none. -/
def digit (c : Byte) : Option Nat :=
  if 0x61 ≤ c.toNat ∧ c.toNat ≤ 0x7A then some (c.toNat - 0x61)
  else if 0x41 ≤ c.toNat ∧ c.toNat ≤ 0x5A then some (c.toNat - 0x41 + 26)
  else if 0x30 ≤ c.toNat ∧ c.toNat ≤ 0x39 then some (c.toNat - 0x30 + 52)
  else none

/-- The sixteen words RD can read, by the names of 20_memory.md R61. -/
inductive Select where
  | status | phoneHi | phoneLo | settle | pending | bank | nbfc | pad
  | ct0 | ct1 | ct2 | ct3 | pt0 | pt1 | pt2 | pt3
  deriving DecidableEq, Repr

/-- The select number of R61; numbers 16 to 255 are reserved. -/
def selectOf (sel : Byte) : Option Select :=
  match sel.toNat with
  | 0 => some .status
  | 1 => some .phoneHi
  | 2 => some .phoneLo
  | 3 => some .settle
  | 4 => some .pending
  | 5 => some .bank
  | 6 => some .nbfc
  | 7 => some .pad
  | 8 => some .ct0
  | 9 => some .ct1
  | 10 => some .ct2
  | 11 => some .ct3
  | 12 => some .pt0
  | 13 => some .pt1
  | 14 => some .pt2
  | 15 => some .pt3
  | _ => none

end Sys2Proof.Machine
end

