-- ==== Sys2Proof/Machine/Transcoder.lean ====
section
/-! DEFINITION. The base-62 transcoder: START and PUSH (42_base62_transcoder.md R122, R123) and the function of a whole token they
compute, Decode62 (R124). -/

namespace Sys2Proof.Machine

/-- `START` (R122). -/
def execStart (s : State) : StepResult := .next s.clearToken

/-- One valid digit appended (R123): `t = ACC * 62 + d`, a natural number; `OVF` is set when t reaches 2^128 and never cleared
here; `ACC` keeps t modulo 2^128. -/
def State.appendDigit (d : Nat) (s : State) : State :=
  { s with acc := BitVec.ofNat 128 (s.acc.toNat * Config.radix + d)
           ovf := s.ovf || overflows (s.acc.toNat * Config.radix + d) }

/-- One character pushed (R123): an invalid code sets `BADC` and leaves `ACC` and `OVF`. -/
def State.pushChar (c : Byte) (s : State) : State :=
  match digit c with
  | none => { s with badc := true }
  | some d => s.appendDigit d

/-- `PUSH c` (R123). -/
def execPush (c : Byte) (s : State) : StepResult := .next (s.pushChar c)

/-- The digits of a token, or none if a character is not in the alphabet (R124). -/
def tokenDigits : List Byte → Option (List Nat)
  | [] => some []
  | c :: cs =>
    match digit c, tokenDigits cs with
    | some d, some ds => some (d :: ds)
    | _, _ => none

/-- The unbounded value of a digit string: the sum over j of `digit(t[j]) * 62^(n-1-j)` (R124). -/
def digitsValue : List Nat → Nat
  | [] => 0
  | d :: ds => d * Config.radix ^ ds.length + digitsValue ds

/-- `Decode62(t)` (R124): the 16 bytes as the 128-bit integer whose view they are, or the error. -/
def decode62 (t : List Byte) : Except DecodeError Wide :=
  match tokenDigits t with
  | none => .error .invalidTokenCharacter
  | some ds =>
    if digitsValue ds ≥ Config.tokenBound then .error .tokenTooLong else .ok (BitVec.ofNat 128 (digitsValue ds))

end Sys2Proof.Machine
end

