-- ==== Sys2Proof/Machine/DecodePipeline.lean ====
section
/-! DEFINITION. Stages 2 to 4 of DECODE (45_decode_read.md R181, R182): check the token, decrypt two blocks, slice the payload;
and the codec's share of the whole function of a token (R180). -/

namespace Sys2Proof.Machine

/-- The successful end of DECODE, all writes as one change (R181): `PT`, the fields, the advisory flags, `VALID`, `ERR`. The
working registers hold the next free value (log entry 4). Reads `K`, which by then is held. -/
def State.decodeSucceed (s : State) : State :=
  { s with res := unpack (decryptWords (ctWords s.acc) s.k)
           valid := true
           err := 0#3
           work := freeCipherRegs s.freeCount
           freeCount := s.freeCount + 1 }

/-- DECODE after stage 1 (R181): the three tests in the order of 60_exceptions.md R226, then the cipher and the slicer. -/
def State.decodeStages (s : State) : State :=
  if s.fatal then s.raise .environmentUnavailable
  else if s.badc then s.raise .invalidTokenCharacter
  else if s.ovf then s.raise .tokenTooLong
  else s.decodeSucceed

/-- The hardware's share of `decode(token)` under a key, as one function of the token (R180, R182): components 2, 3 and 4. -/
def decodeToken (key : Words4) (t : List Byte) : Except DecodeError Results :=
  match decode62 t with
  | .error e => .error e
  | .ok v => .ok (unpack (decryptWords (ctWords v) key))

end Sys2Proof.Machine
end

