-- ==== Sys2Proof/Machine/KeyDerivation.lean ====
section
/-! DEFINITION. The key derivation engine (41_key_derivation.md R100 to R107): KeyWords, the hash request and its one suspension
point, the answer, the resumption of the suspended command, and the command KDF (R102). -/

namespace Sys2Proof.Machine

/-- The digest byte `D[i]`, i = 0..31: `D[0]` is bits 255:248 (20_memory.md R50). -/
def digestByte (d : Digest) (i : Nat) : Byte := d.extractLsb' (248 - 8 * i) 8

/-- `k_i = D[4i] || D[4i+1] || D[4i+2] || D[4i+3]` (R100). -/
def keyWord (d : Digest) (i : Nat) : Word :=
  digestByte d (4 * i) ++ digestByte d (4 * i + 1) ++ digestByte d (4 * i + 2) ++ digestByte d (4 * i + 3)

/-- `KeyWords(D)` (R100): the first 16 digest bytes; the rest is not used. -/
def keyWords (d : Digest) : Words4 := ⟨keyWord d 0, keyWord d 1, keyWord d 2, keyWord d 3⟩

/-- The answer of the hash primitive is consumed: a digest loads the key (R104), "unavailable" sets `FATAL` and changes neither
`K` nor `KEYV` (R105). -/
def State.takeAnswer (a : HashAnswer) (s : State) : State :=
  match a with
  | .digest d => { s with k := keyWords d, keyv := true }
  | .unavailable => { s with fatal := true }

/-- `HPEND <- 0`; the suspended command continues (R103). `PENDCMD` goes back to 0 (log entry 7). -/
def State.resume (s : State) : State :=
  match s.pendcmd with
  | .kdf => { s with hpend := false, pendcmd := .kdf }
  | .decode => State.decodeStages { s with hpend := false, pendcmd := .kdf }

/-- The suspension ends with answer `a` (R103). -/
def State.answerHash (a : HashAnswer) (s : State) : State := (s.takeAnswer a).resume

/-- `await hash` (R103): if the hash primitive's answer is the very next move, request and answer are one step (10_state.md R24,
log entry 6); otherwise the command stays suspended. -/
def State.awaitHash (s : State) : State :=
  match s.moves with
  | [] => s
  | .host :: _ => s
  | .lateHash _ :: _ => s
  | .rst :: _ => s
  | .hash a :: rest => State.answerHash a { s with moves := rest }

/-- A hash request is issued for command `p` (R102, R103, R181): `PENDCMD`, `HPEND`, one more request on the hash port. -/
def State.requestHash (p : PendCmd) (s : State) : State := { s with pendcmd := p, hpend := true, hreqs := s.hreqs + 1 }

/-- `PENDCMD <- p; KeyDerive()` (R103), entered only with `KEYV = 0`, `FATAL = 0`, `HPEND = 0`. -/
def State.keyDerive (p : PendCmd) (s : State) : State := (s.requestHash p).awaitHash

/-- `KDF` (R102). -/
def execKdf (s : State) : StepResult :=
  if s.keyv || s.fatal then .next s else .next (s.keyDerive .kdf)

end Sys2Proof.Machine
end

