-- ==== Sys2Proof/Machine/DecodeRead.lean ====
section
/-! DEFINITION. The commands DECODE, RD and NOP (45_decode_read.md R181, R185, R187). -/

namespace Sys2Proof.Machine

/-- `NOP` (R187): nothing. -/
def execNop (s : State) : StepResult := .next s

/-- `DECODE` (R181): stage 1 derives the key if it is neither held nor out of reach, and may suspend; stages 2 to 4 follow. -/
def execDecode (s : State) : StepResult :=
  if s.keyv || s.fatal then .next s.decodeStages else .next (s.keyDerive .decode)

/-- `SelectWord(sel)` (20_memory.md R61, R185): narrower registers are zero-extended. -/
def selectWord (s : State) : Select → Word
  | .status => statusWord s
  | .phoneHi => (s.res.phone.extractLsb' 32 8).zeroExtend 32
  | .phoneLo => s.res.phone.extractLsb' 0 32
  | .settle => s.res.settle.zeroExtend 32
  | .pending => s.res.pending.zeroExtend 32
  | .bank => s.res.bank.zeroExtend 32
  | .nbfc => s.res.nbfc.zeroExtend 32
  | .pad => s.res.pad.zeroExtend 32
  | .ct0 => ctWord s.acc 0
  | .ct1 => ctWord s.acc 1
  | .ct2 => ctWord s.acc 2
  | .ct3 => ctWord s.acc 3
  | .pt0 => s.res.pt.w0
  | .pt1 => s.res.pt.w1
  | .pt2 => s.res.pt.w2
  | .pt3 => s.res.pt.w3

/-- `RD sel` (R185): exactly one response word, no other change. A select 16 to 255 is no RD command; its effect is that of the
reserved RD word (30_encoding.md R87, log entry 13). -/
def execRd (sel : Byte) (s : State) : StepResult :=
  match selectOf sel with
  | some r => .next (s.respond (selectWord s r))
  | none => .next s.reservedRdWord

end Sys2Proof.Machine
end

