-- ==== Sys2Proof/Machine/Dispatch.lean ====
section
/-! DEFINITION. One arm per command, each one call of its meaning. -/

namespace Sys2Proof.Machine

-- The command set of 30_encoding.md R82.
def exec (i : Instr) (s : State) : Host.Outcome State Fault Refusal :=
  match i with
  | .nop => Sys2Proof.Machine.execNop s
  | .start => Sys2Proof.Machine.execStart s
  | .push c => Sys2Proof.Machine.execPush c s
  | .kdf => Sys2Proof.Machine.execKdf s
  | .decode => Sys2Proof.Machine.execDecode s
  | .rd sel => Sys2Proof.Machine.execRd sel s

end Sys2Proof.Machine
end

