-- ==== Sys2Proof/Machine/Sequencer.lean ====
section
/-! DEFINITION. What stands in a program counter's place (10_state.md R36): the command port (20_memory.md R62), the moves of the
other agents, and running a list of commands in order (R58). -/

namespace Sys2Proof.Machine

/-- A command word is issued: it is decoded (30_encoding.md R83) and has its whole effect (20_memory.md R60). -/
def issueWord (w : CmdWord) (s : State) : StepResult :=
  match decode w with
  | .command i => exec i s
  | .reservedRd => .next s.reservedRdWord
  | .reserved => .next s.reservedWord

/-- The host's move: it offers its next word, which is taken unless `HPEND = 1` (20_memory.md R57, R62). With no word to offer, or
with `cmd_ready = 0`, nothing changes (log entry 9). -/
def hostMove (s : State) : StepResult :=
  if s.cmdReady then
    match s.cmds with
    | [] => .next s
    | w :: rest => issueWord w { s with cmds := rest }
  else .next s

/-- The hash primitive's move: a suspended command consumes the answer and continues (41_key_derivation.md R103); an answer while
`HPEND = 0` changes no state (20_memory.md R64). -/
def hashMove (a : HashAnswer) (s : State) : StepResult :=
  if s.hpend then .next (s.answerHash a) else .next s

/-- An answer to a request that a reset has made the block forget: "ignored" (70_reset_and_hazards.md R250), whatever the block
waits for now (log entry 16). -/
def lateHashMove (_a : HashAnswer) (s : State) : StepResult := .next s

/-- One move of one agent. -/
def makeMove (m : Move) (s : State) : StepResult :=
  match m with
  | .host => hostMove s
  | .hash a => hashMove a s
  | .lateHash a => lateHashMove a s
  | .rst => .next s.resetBlock

/-- The next agent's move; the move is used up. When no move is listed, the host moves (log entry 5). -/
def nextMove (s : State) : StepResult :=
  match s.moves with
  | [] => hostMove s
  | m :: rest => makeMove m { s with moves := rest }

/-- The state with the word `w` as the next word the host issues, the host moving next and the block ready. -/
def State.offerWord (w : CmdWord) (s : State) : State :=
  { s with cmds := w :: s.cmds, moves := .host :: s.moves, hpend := false }

/-- Commands given to the block in order, each whole before the next (20_memory.md R56, R58). Where one is left suspended, no further
one is taken (R57): the words of the rest wait before those already there. This is no run: for a run's end and outcome see
ProgramRun.lean. -/
def execAll : List Instr → State → StepResult
  | [], s => .next s
  | i :: is, s =>
    if s.cmdReady then
      match exec i s with
      | .next t => execAll is t
      | .fault f => .fault f
      | .refused r => .refused r
    else .next { s with cmds := (i :: is).map encode ++ s.cmds }

end Sys2Proof.Machine
end

