-- ==== Sys2Proof/Machine/Step.lean ====
section
/-! DEFINITION. One step of the machine, and placing a word where the next step fetches it. -/

namespace Sys2Proof.Machine

/-- One step: one move of one agent (Sequencer.lean). -/
def step (s : State) : Host.Outcome State Fault Refusal := nextMove s

/-- `s` with the command word of bits `w` (`nbits` of them, the rest 0) as the next word the host issues, so that the next step
issues exactly it (log entry 1). -/
def State.withFetchWord (s : State) (nbits w : Nat) : State := s.offerWord (BitVec.ofNat 16 (w % 2 ^ nbits))

end Sys2Proof.Machine
end

