-- ==== Sys2Proof/Machine/Assembler.lean ====
section
/-! DEFINITION. The assembler notation and the pseudo-commands (30_encoding.md R89, R90), and the canonical host sequence
(45_decode_read.md R190). Notation for host programs; no step uses it. What R89 leaves open of the text
form is log entry 15. -/

namespace Sys2Proof.Machine

/-- The character code of R120; a character above 0xFF is presented as 0xFF. -/
def charCode (ch : Char) : Byte := if ch.toNat ≤ 0xFF then BitVec.ofNat 8 ch.toNat else 0xFF#8

/-- The select number of a word (20_memory.md R61): the inverse of `selectOf`. -/
def Select.number : Select → Byte
  | .status => 0#8
  | .phoneHi => 1#8
  | .phoneLo => 2#8
  | .settle => 3#8
  | .pending => 4#8
  | .bank => 5#8
  | .nbfc => 6#8
  | .pad => 7#8
  | .ct0 => 8#8
  | .ct1 => 9#8
  | .ct2 => 10#8
  | .ct3 => 11#8
  | .pt0 => 12#8
  | .pt1 => 13#8
  | .pt2 => 14#8
  | .pt3 => 15#8

/-- `RD name` (R89). -/
def rdSelect (r : Select) : Instr := .rd r.number

/-- `PUSHS "s"` (R90). -/
def pushes (t : List Byte) : List Instr := t.map .push

/-- `TOKEN "s"` (R90). -/
def token (t : List Byte) : List Instr := .start :: pushes t

/-- `DECODETOKEN "s"` (R90). -/
def decodeTokenCmds (t : List Byte) : List Instr := token t ++ [.decode]

/-- `RDPHONE` (R90). -/
def rdPhone : List Instr := [rdSelect .phoneHi, rdSelect .phoneLo]

/-- `RDFIELDS` (R90). -/
def rdFields : List Instr :=
  [rdSelect .status, rdSelect .phoneHi, rdSelect .phoneLo, rdSelect .settle, rdSelect .pending, rdSelect .bank, rdSelect .nbfc,
    rdSelect .pad]

/-- The canonical host sequence of one decode (R190), with the optional leading KDF. -/
def canonicalSequence (withKdf : Bool) (t : List Byte) : List Instr :=
  (if withKdf then [.kdf] else []) ++ decodeTokenCmds t ++ rdFields

/-- The select names of R89, as characters. -/
def selectNames : List (List Char × Select) :=
  [(['S','T','A','T','U','S'], .status), (['P','H','O','N','E','_','H','I'], .phoneHi),
   (['P','H','O','N','E','_','L','O'], .phoneLo), (['S','E','T','T','L','E'], .settle),
   (['P','E','N','D','I','N','G'], .pending), (['B','A','N','K'], .bank), (['N','B','F','C'], .nbfc), (['P','A','D'], .pad)] ++
  [(['C','T','0'], .ct0), (['C','T','1'], .ct1), (['C','T','2'], .ct2), (['C','T','3'], .ct3),
   (['P','T','0'], .pt0), (['P','T','1'], .pt1), (['P','T','2'], .pt2), (['P','T','3'], .pt3)]

/-- The digit symbols of R89's numbers, each at the place of its value: ten for decimal, sixteen after `0x`. -/
def numberSymbols : List Char :=
  ['0', '1', '2', '3', '4', '5', '6', '7', '8', '9'] ++ ['A', 'B', 'C', 'D', 'E', 'F']

/-- The value of one symbol in a base: its place among the base's symbols, a letter in either case (log entry 15). -/
def symbolValue (base : Nat) (c : Char) : Option Nat := (numberSymbols.take base).idxOf? c.toUpper

/-- The number a nonempty string of symbols denotes in a base, most significant symbol first. -/
def numberIn (base : Nat) (symbols : List Char) : Option Nat :=
  if symbols.isEmpty then none
  else (symbols.mapM (symbolValue base)).map (fun values => values.foldl (fun n v => n * base + v) 0)

/-- A number operand of R89: after `0x` in base sixteen, else decimal. DESIGN CHOICE (log entry 15): R89 writes `PUSH 0xNN`, `PUSH n`
and `RD n`; any count of hexadecimal digits is taken, not two alone, and leading zeros in either base. -/
def number : List Char → Option Nat
  | '0' :: 'x' :: symbols => numberIn 16 symbols
  | symbols => numberIn 10 symbols

/-- A blank. -/
def isBlank (c : Char) : Bool := c == ' ' || c == Char.ofNat 9

/-- Nothing but blanks up to the end of the line or a comment (R89). -/
def onlyComment : List Char → Bool
  | [] => true
  | c :: cs => if c == ';' then true else isBlank c && onlyComment cs

/-- The characters up to the closing double quote, and what follows it. -/
def quotedString : List Char → Option (List Char × List Char)
  | [] => none
  | c :: cs =>
    if c == Char.ofNat 34 then some ([], cs)
    else match quotedString cs with
      | some (s, rest) => some (c :: s, rest)
      | none => none

/-- A word operand and what follows it: up to a blank or a comment. -/
def wordOperand (cs : List Char) : List Char × List Char :=
  (cs.takeWhile (fun c => !isBlank c && c != ';'), cs.dropWhile (fun c => !isBlank c && c != ';'))

/-- A command of one mnemonic without an operand. -/
def bare (i : Instr) (rest : List Char) : Option (List Instr) := if onlyComment rest then some [i] else none

/-- A pseudo-command with a string operand. -/
def withString (f : List Byte → List Instr) (rest : List Char) : Option (List Instr) :=
  match rest with
  | [] => none
  | q :: cs =>
    if q == Char.ofNat 34 then
      match quotedString cs with
      | some (s, tail) => if onlyComment tail then some (f (s.map charCode)) else none
      | none => none
    else none

/-- The operand of PUSH (R89): a quoted character, the quote mark itself among them (log entry 15), or a number 0 to 255. -/
def pushOperand (rest : List Char) : Option (List Instr) :=
  match rest with
  | q :: x :: q' :: tail =>
    if q == Char.ofNat 39 && q' == Char.ofNat 39 then
      if onlyComment tail then some [.push (charCode x)] else none
    else pushNumber rest
  | _ => pushNumber rest
where
  /-- A number operand of PUSH. -/
  pushNumber (cs : List Char) : Option (List Instr) :=
    match number (wordOperand cs).1 with
    | some n => if n ≤ 255 ∧ onlyComment (wordOperand cs).2 then some [.push (BitVec.ofNat 8 n)] else none
    | none => none

/-- The operand of RD (R89): a select name or a number 0 to 15. DESIGN CHOICE (log entry 15): the number may stand after `0x` too. -/
def rdOperand (rest : List Char) : Option (List Instr) :=
  if onlyComment (wordOperand rest).2 then
    match selectNames.lookup (wordOperand rest).1, number (wordOperand rest).1 with
    | some r, _ => some [rdSelect r]
    | none, some n => if n ≤ 15 then some [.rd (BitVec.ofNat 8 n)] else none
    | none, none => none
  else none

/-- The commands of one line of the notation (R89, R90); a blank or comment line gives none of them, a line that is neither of the
notation gives no list. -/
def assembleLine (line : List Char) : Option (List Instr) :=
  let cs := line.dropWhile isBlank
  let m := (wordOperand cs).1
  let rest := (wordOperand cs).2.dropWhile isBlank
  if onlyComment cs then some []
  else if m = ['N','O','P'] then bare .nop rest
  else if m = ['S','T','A','R','T'] then bare .start rest
  else if m = ['K','D','F'] then bare .kdf rest
  else if m = ['D','E','C','O','D','E'] then bare .decode rest
  else if m = ['P','U','S','H'] then pushOperand rest
  else if m = ['R','D'] then rdOperand rest
  else if m = ['P','U','S','H','S'] then withString pushes rest
  else if m = ['T','O','K','E','N'] then withString token rest
  else if m = ['D','E','C','O','D','E','T','O','K','E','N'] then withString decodeTokenCmds rest
  else if m = ['R','D','P','H','O','N','E'] then (if onlyComment rest then some rdPhone else none)
  else if m = ['R','D','F','I','E','L','D','S'] then (if onlyComment rest then some rdFields else none)
  else none

/-- The words of a program, one command a line (R89). -/
def assemble : List (List Char) → Option (List CmdWord)
  | [] => some []
  | l :: ls =>
    match assembleLine l, assemble ls with
    | some is, some ws => some (is.map encode ++ ws)
    | _, _ => none

end Sys2Proof.Machine
end

