-- ==== Sys2Proof/Machine/HostSide.lean ====
section
/-! DEFINITION. The host-side rules downstream of the block (46_host_lookup_and_profile.md R200 to R207): lookup tables, profile
assembler, phone rendering, the phone-shape check and the source's result type. None of this is hardware and no step uses it
(00_scope.md R6); the tables and the mobile prefixes are arguments (R203, N6, N7). -/

namespace Sys2Proof.Machine

/-- The two static tables, partial maps from codes to names (R201, R203; log entry 17). -/
structure LookupTables where
  bank : List (Nat × String)
  nbfc : List (Nat × String)
  deriving DecidableEq, Repr

/-- The literal for every code without an entry (R201). -/
def unknownName : String := "Unknown"

/-- The name of a code: populated codes lie in 1..50, every other code and code 0 give `"Unknown"` (R201). -/
def nameOf (table : List (Nat × String)) (code : Nat) : String :=
  if 1 ≤ code ∧ code ≤ 50 then (table.lookup code).getD unknownName else unknownName

/-- `lender` (R202): the NBFC name if it resolved, else the bank name. -/
def lenderOf (bankName nbfcName : String) : String := if nbfcName ≠ unknownName then nbfcName else bankName

/-- `PHONE = PHONE_HI[7:0] × 2^32 + PHONE_LO` (R204, 30_encoding.md R90). -/
def phoneNumber (hi lo : Word) : Nat := (hi.toNat % 256) * 2 ^ 32 + lo.toNat

/-- The plain decimal numeral, no leading zeros, `0` for zero, as its characters (R204). -/
def decimalDigits (n : Nat) : List Char := Nat.toDigits 10 n

/-- The Borrower Profile (R205); name, email and account are never supplied by the hardware. -/
structure BorrowerProfile where
  phone : List Char
  pendingAmount : Nat
  maxSettlement : Nat
  minSettlement : Nat
  bankName : String
  nbfcName : String
  lender : String
  deriving DecidableEq, Repr

/-- The profile assembler, a pure function (R205). -/
def assembleProfile (phone : Nat) (settle pending : Nat) (bankName nbfcName : String) : BorrowerProfile where
  phone := decimalDigits phone
  pendingAmount := pending
  maxSettlement := pending
  minSettlement := settle
  bankName := bankName
  nbfcName := nbfcName
  lender := lenderOf bankName nbfcName

/-- The words the host reads after DECODE, in the order of `RDFIELDS` (30_encoding.md R90). -/
structure FieldWords where
  status : Word
  phoneHi : Word
  phoneLo : Word
  settle : Word
  pending : Word
  bank : Word
  nbfc : Word
  pad : Word
  deriving DecidableEq, Repr

/-- The profile of a successful decode from the words read (R201 to R205). -/
def profileOf (tables : LookupTables) (w : FieldWords) : BorrowerProfile :=
  assembleProfile (phoneNumber w.phoneHi w.phoneLo) w.settle.toNat w.pending.toNat (nameOf tables.bank w.bank.toNat)
    (nameOf tables.nbfc w.nbfc.toNat)

/-- The source's result type from the STATUS word (R207): `VALID = 1` gives the profile, else `ERR` names the error. With
`VALID = 0` and another code there is no outcome (log entry 14). -/
def hostOutcome (tables : LookupTables) (w : FieldWords) : Option (Except DecodeError BorrowerProfile) :=
  if w.status.getLsbD 1 then some (.ok (profileOf tables w))
  else if w.status.extractLsb' 2 3 = DecodeError.invalidTokenCharacter.code then some (.error .invalidTokenCharacter)
  else if w.status.extractLsb' 2 3 = DecodeError.tokenTooLong.code then some (.error .tokenTooLong)
  else if w.status.extractLsb' 2 3 = DecodeError.environmentUnavailable.code then some (.error .environmentUnavailable)
  else none

/-- `NoTokenPresent` is the host's own, without using the block (R207, 60_exceptions.md R223): the outcome when the collaborator
found no token. -/
def hostOutcomeOf (tables : LookupTables) (token : Option (List Byte)) (read : FieldWords) :
    Option (Except DecodeError BorrowerProfile) :=
  match token with
  | none => some (.error .noTokenPresent)
  | some _ => hostOutcome tables read

/-- The second plausibility check (R206): 10 to 12 decimal digits beginning with a mobile prefix. With no prefixes given it never
fires (U8). -/
def phoneShaped (mobilePrefixes : List (List Char)) (pending : Nat) : Bool :=
  decide (10 ≤ (decimalDigits pending).length) && decide ((decimalDigits pending).length ≤ 12) &&
    mobilePrefixes.any (fun p => p.isPrefixOf (decimalDigits pending))

/-- The unmasked phone of the source's formula, rebuilt by a host that wants it (R204, 90_conflicts.md C1). -/
def unmaskedPhone (w : FieldWords) : Nat := (w.pad.toNat % 256) * 2 ^ 40 + phoneNumber w.phoneHi w.phoneLo

end Sys2Proof.Machine
end

