-- ==== Sys2Proof/Machine/ProgramRun.lean ====
section
/-! DEFINITION. The run of a command program: its launch, its end and its outcome (70_reset_and_hazards.md R260). -/

namespace Sys2Proof.Machine

/-- A program, a finite list of command words, from a given state: the words to issue, and no response delivered yet (R260). -/
def State.launch (program : List CmdWord) (s : State) : State := { s with cmds := program, rsps := [] }

/-- The run ends (R260): the last word is taken and completed, `HPEND = 0`. Every response is delivered by then, since the host
always takes it (20_memory.md R63). -/
def State.runEnded (s : State) : Bool := s.cmds.isEmpty && s.cmdReady

/-- The elements of 10_state.md R20 alone: the ports, the moves to come and the model's counter blanked. -/
def State.elements (s : State) : State := { s with cmds := [], rsps := [], hreqs := 0, moves := [], freeCount := 0 }

/-- The outcome of a run (R260): the final state of R20 and the responses in order. -/
structure RunOutcome where
  final : State
  responses : List Word
  deriving DecidableEq, Repr

/-- The outcome at the end of a run (R260). -/
def State.outcome (s : State) : RunOutcome := ⟨s.elements, s.rsps⟩

/-- `rst` comes next. -/
def State.resetNext (s : State) : Bool :=
  match s.moves with
  | [] => false
  | .host :: _ => false
  | .hash _ :: _ => false
  | .lateHash _ :: _ => false
  | .rst :: _ => true

/-- The outcome of a launched run that ends within `n` steps, if it does. A run that is still suspended has none (R260), nor has one
that a reset breaks off before its end (log entry 18). -/
def runOutcome : Nat → State → Option RunOutcome
  | 0, s => if s.runEnded then some s.outcome else none
  | n + 1, s =>
    if s.runEnded then some s.outcome
    else if s.resetNext then none
    else match step s with
      | .next t => runOutcome n t
      | .fault _ => none
      | .refused _ => none

end Sys2Proof.Machine
end

