-- ==== Sys2Proof/Safety.lean ====
section
/-! DEFINITION. What claims are stated in: the invariant of reachable states (10_state.md R40), the launch premises
(70_reset_and_hazards.md R261), and the part of the state that a later command or the host can depend on. -/

namespace Sys2Proof.Machine

/-- The fields are the slices of the payload the four `PT` words denote (R40 (c), 44_bitfield_unpacker.md R162), and the advisory
flags are those of the fields (R163). -/
structure Results.Sliced (r : Results) : Prop where
  pad : r.pad = r.pt.payload.extractLsb' 120 8
  phone : r.phone = r.pt.payload.extractLsb' 80 40
  settle : r.settle = r.pt.payload.extractLsb' 50 30
  pending : r.pending = r.pt.payload.extractLsb' 20 30
  bank : r.bank = r.pt.payload.extractLsb' 10 10
  nbfc : r.nbfc = r.pt.payload.extractLsb' 0 10
  padnz : r.padnz = true ↔ r.pad ≠ 0#8
  shi : r.shi = true ↔ 100000000 < r.settle.toNat
  phi : r.phi = true ↔ 100000000 < r.pending.toNat

/-- The invariant of R40, clauses (a) to (e), with the request count of 20_memory.md R64, the bound of `RND` (10_state.md R29) and the
rest value of `PENDCMD` (log entry 7). -/
structure State.Inv (s : State) : Prop where
  /-- R40 (a). -/
  keyOrFatal : ¬ (s.keyv = true ∧ s.fatal = true)
  /-- R40 (b). -/
  emptyUnlessValid : s.valid = false → s.res = Results.empty
  /-- R40 (c). -/
  validResult : s.valid = true → s.err = 0#3 ∧ s.keyv = true ∧ s.res.Sliced
  /-- R40 (d). -/
  errCode : s.err = 0#3 ∨ s.err = 1#3 ∨ s.err = 2#3 ∨ s.err = 3#3
  /-- R40 (e). -/
  pendingUnanswered : s.hpend = true → s.keyv = false ∧ s.fatal = false
  /-- R64: at most one request per reset, and after its answer one of `KEYV`, `FATAL` is set. -/
  oneRequest : s.hreqs = if s.keyv || s.fatal || s.hpend then 1 else 0
  /-- R24: `PENDCMD` is set only while a command is suspended. -/
  pendcmdAtRest : s.hpend = false → s.pendcmd = .kdf
  /-- R29: `RND` is 0 to 32. -/
  roundBound : s.work.rnd.toNat ≤ 32

/-- `AfterReset` (R261): the state of R250, after the first reset or a later one; what is not the block's own is as it may be: the
words to issue, the responses received, the moves to come, the counter of free values (log entry 10). -/
def AfterReset (s : State) : Prop :=
  s = { State.reset with cmds := s.cmds, rsps := s.rsps, moves := s.moves, freeCount := s.freeCount }

/-- `KeyHeld(k)` (R261). -/
def KeyHeld (k : Words4) (s : State) : Prop := s.keyv = true ∧ s.fatal = false ∧ s.k = k

/-- `CleanToken` (R261). -/
def CleanToken (s : State) : Prop :=
  s.acc = 0#128 ∧ s.ovf = false ∧ s.badc = false ∧ s.res = Results.empty ∧ s.valid = false ∧ s.err = 0#3

/-- The answer that ends a suspension with these moves to come, if one does: no reset precedes it, and answers to forgotten requests
do not count (R250). -/
def awaitedAnswer : List Move → Option HashAnswer
  | [] => none
  | .host :: ms => awaitedAnswer ms
  | .lateHash _ :: ms => awaitedAnswer ms
  | .hash a :: _ => some a
  | .rst :: _ => none

/-- The next step issues a hash request, answered in that step or not. -/
def IssuesRequest (s : State) : Prop := ∃ t, step s = .next t ∧ t.hreqs = s.hreqs + 1

/-- Every hash request of the run from `s` is eventually answered, with an answer of the kind `p`: the request that stands now, if
one does, and each that a later step of the run issues, by the moves after that step's own. -/
structure RequestsAnswered (p : HashAnswer → Prop) (s : State) : Prop where
  standing : s.hpend = true → ∃ a, awaitedAnswer s.moves = some a ∧ p a
  issued : ∀ (n : Nat) (t : State), Host.Core.run Sys2Proof.core n s = .next t → IssuesRequest t →
    ∃ a, awaitedAnswer t.moves.tail = some a ∧ p a

/-- `HashAnswers` (R261): every hash request is eventually answered. -/
def HashAnswers (s : State) : Prop := RequestsAnswered (fun _ => True) s

/-- `HashAvailable(D)` (R261): every hash request is answered with `ok = 1` and the digest D. -/
def HashAvailable (d : Digest) (s : State) : Prop := RequestsAnswered (fun a => a = .digest d) s

/-- No reset comes. -/
def NoReset (s : State) : Prop := ∀ m ∈ s.moves, m ≠ .rst

/-- The run of a program from `s` has the outcome `o` (R260). -/
def HasOutcome (program : List CmdWord) (s : State) (o : RunOutcome) : Prop := ∃ n, runOutcome n (s.launch program) = some o

/-- The hash primitive's contract (20_memory.md R64, 41_key_derivation.md R100): a digest it answers with is `HASH256(SECRET)`. -/
def HonestHash (s : State) : Prop := ∀ d, Move.hash (.digest d) ∈ s.moves → d = Config.hash256 hreqMsg

/-- `NoReservedWords` (R261). -/
def NoReservedWords (s : State) : Prop := ∀ w ∈ s.cmds, ∃ i, decode w = .command i

/-- The host moves next, and `ms` are the moves after it (log entry 5). -/
def HostMovesNext (s : State) (ms : List Move) : Prop := (s.moves = [] ∧ ms = []) ∨ s.moves = .host :: ms

/-- The hash primitive's answer is not the very next move. -/
def NoAnswerNext (s : State) : Prop := ∀ a ms, s.moves ≠ .hash a :: ms

/-- The state without the cipher working registers, whose values outside DECODE the spec does not define (10_state.md R29), and
without the model's own counter of free values. -/
def State.visible (s : State) : State := { s with work := CipherRegs.zero, freeCount := 0 }

end Sys2Proof.Machine
end

