-- ==== Sys2Proof/Certificates/Slice0/Obligations.lean ====
section
/-! DEFINITION. The statements for the provers. Each docstring names the rule of spec/ it formalises, and the log entry where it rests
on a choice of the model. -/

open Sys2Proof Sys2Proof.Machine

/-! ## Encoding -/

/-- Words written out from the table of 30_encoding.md R82 and the edges of 95_test_vectors.md 2.7. -/
def Obligations.CommandWordsDecode : Prop :=
  decode 0b0000000000000000#16 = .command .nop ∧ decode 0b0000000100000000#16 = .command .start ∧
  decode 0b0000001001100001#16 = .command (.push 0x61#8) ∧ decode 0b0000001011111111#16 = .command (.push 0xFF#8) ∧
  decode 0b0000001100000000#16 = .command .kdf ∧ decode 0b0000010000000000#16 = .command .decode ∧
  decode 0b0000010100000000#16 = .command (.rd 0#8) ∧ decode 0b0000010100001111#16 = .command (.rd 15#8) ∧
  decode 0x0001#16 = .reserved ∧ decode 0x0480#16 = .reserved ∧ decode 0x0510#16 = .reservedRd ∧
  decode 0x05FF#16 = .reservedRd ∧ decode 0x0600#16 = .reserved ∧ decode 0xFFFF#16 = .reserved

/-- Decoding and encoding agree in both directions (R82, R83): a word decodes to a command exactly if the command is well formed and
the word is its encoding. -/
def Obligations.DecodeEncodeAgree : Prop :=
  ∀ (w : CmdWord) (i : Instr), decode w = .command i ↔ i.wellFormed = true ∧ encode i = w

/-- The reserved words are those of R86 and no others. -/
def Obligations.ReservedWordsAreThese : Prop :=
  ∀ w : CmdWord,
    (decode w = .reserved ↔
      ((opField w = 0x00#8 ∨ opField w = 0x01#8 ∨ opField w = 0x03#8 ∨ opField w = 0x04#8) ∧ argField w ≠ 0#8) ∨
        6 ≤ (opField w).toNat) ∧
    (decode w = .reservedRd ↔ opField w = 0x05#8 ∧ 16 ≤ (argField w).toNat)

/-- The match and mask columns of R82. -/
def Obligations.MatchAndMaskSelectTheCommand : Prop :=
  ∀ w : CmdWord,
    (decode w = .command .nop ↔ w &&& 0xFFFF#16 = 0x0000#16) ∧
    (decode w = .command .start ↔ w &&& 0xFFFF#16 = 0x0100#16) ∧
    ((∃ c, decode w = .command (.push c)) ↔ w &&& 0xFF00#16 = 0x0200#16) ∧
    (decode w = .command .kdf ↔ w &&& 0xFFFF#16 = 0x0300#16) ∧
    (decode w = .command .decode ↔ w &&& 0xFFFF#16 = 0x0400#16) ∧
    ((∃ sel, decode w = .command (.rd sel)) ↔ w &&& 0xFFF0#16 = 0x0500#16)

/-! ## Reset, steps and the ports -/

/-- The values R39 and R250 give for reset. `K` and the cipher working registers have none there and are not named here. -/
def Obligations.ResetLeavesSpecValues : Prop :=
  State.reset.keyv = false ∧ State.reset.fatal = false ∧ State.reset.hpend = false ∧ State.reset.pendcmd = .kdf ∧
  State.reset.acc = 0#128 ∧ State.reset.ovf = false ∧ State.reset.badc = false ∧ State.reset.res = Results.empty ∧
  State.reset.valid = false ∧ State.reset.err = 0#3 ∧ State.reset.cmderr = false ∧ statusWord State.reset = 0x00000000#32

/-- The invariant holds at reset (R40). -/
def Obligations.ResetMeetsInvariant : Prop := State.reset.Inv

/-- Every step keeps the invariant of R40 (with R64, R29, and the rest value of `PENDCMD`, log entry 7). -/
def Obligations.StepKeepsInvariant : Prop := ∀ s t : State, s.Inv → step s = .next t → t.Inv

/-- A step in which the host moves and the block is ready runs the command that the next word decodes to (R58, R62, R83). -/
def Obligations.StepRunsDecodedCommand : Prop :=
  ∀ (s : State) (ms : List Move) (w : CmdWord) (rest : List CmdWord) (i : Instr),
    s.hpend = false → HostMovesNext s ms → s.cmds = w :: rest → decode w = .command i →
    step s = exec i { s with cmds := rest, moves := ms }

/-- A placed word is read and run by the very next step (log entry 1). -/
def Obligations.FetchWordIsRunNext : Prop :=
  ∀ (s : State) (i : Instr), i.wellFormed = true →
    decodeTableWord 16 (encode i).toNat = some i ∧
    step (s.withFetchWord 16 (encode i).toNat) = exec i { s with hpend := false }

/-- The whole effect of a reserved word (R87). -/
def Obligations.ReservedWordSetsCmdErrOnly : Prop :=
  ∀ (s : State) (ms : List Move) (w : CmdWord) (rest : List CmdWord),
    s.hpend = false → HostMovesNext s ms → s.cmds = w :: rest →
    (decode w = .reserved → step s = .next { s with cmds := rest, moves := ms, cmderr := true }) ∧
    (decode w = .reservedRd →
      step s = .next { s with cmds := rest, moves := ms, cmderr := true, rsps := s.rsps ++ [0x00000000#32] })

/-- The model's choice of log entry 13: RD as syntax with a select 16 to 255 acts as the reserved RD word of that select does. -/
def Obligations.RdOfReservedSelectActsAsReservedWord : Prop :=
  ∀ (sel : Byte) (s : State), 16 ≤ sel.toNat →
    exec (.rd sel) s = .next { s with cmderr := true, rsps := s.rsps ++ [0x00000000#32] } ∧
    issueWord (encode (.rd sel)) s = exec (.rd sel) s

/-- `CMDERR` records that a reserved word was issued, and nothing else sets it (R229, R87). -/
def Obligations.CmdErrOnlyFromReservedWords : Prop :=
  ∀ s t : State, NoReservedWords s → step s = .next t → (s.cmderr = false → t.cmderr = false) ∧ NoReservedWords t

/-- While `HPEND = 1` no command is taken (R24, R57): the host's move changes nothing, and commands given wait in their order. -/
def Obligations.SuspendedBlockTakesNoWord : Prop :=
  (∀ (s : State) (ms : List Move), s.hpend = true → HostMovesNext s ms → step s = .next { s with moves := ms }) ∧
  ∀ (is : List Instr) (s : State), s.hpend = true → execAll is s = .next { s with cmds := is.map encode ++ s.cmds }

/-- An answer that no suspended command waits for changes no state (R64), and neither does, at any time, an answer to a request that
was issued before the last reset (R250). -/
def Obligations.UnrequestedAnswerChangesNothing : Prop :=
  ∀ (s : State) (a : HashAnswer) (ms : List Move),
    (s.hpend = false → s.moves = .hash a :: ms → step s = .next { s with moves := ms }) ∧
    (s.moves = .lateHash a :: ms → step s = .next { s with moves := ms })

/-- `rst` puts the values of R250 and R39, ends a suspension, forgets the request (log entry 11), and leaves the other agents' side as
it was (log entry 10). -/
def Obligations.ResetMoveRestoresBlock : Prop :=
  ∀ (s : State) (ms : List Move), s.moves = .rst :: ms →
    ∃ t, step s = .next t ∧ t.keyv = false ∧ t.fatal = false ∧ t.hpend = false ∧ t.acc = 0#128 ∧ t.ovf = false ∧
      t.badc = false ∧ t.res = Results.empty ∧ t.valid = false ∧ t.err = 0#3 ∧ t.cmderr = false ∧ statusWord t = 0#32 ∧
      t.pendcmd = .kdf ∧ t.hreqs = 0 ∧
      t.cmds = s.cmds ∧ t.rsps = s.rsps ∧ t.moves = ms

/-- Reset is the only way to clear `KEYV`, `FATAL` and `CMDERR` (R250, R22, R23, R35). -/
def Obligations.OnlyResetClearsStickyFlags : Prop :=
  ∀ s t : State, step s = .next t → (∀ ms, s.moves ≠ .rst :: ms) →
    (s.keyv = true → t.keyv = true) ∧ (s.fatal = true → t.fatal = true) ∧ (s.cmderr = true → t.cmderr = true)

/-- A held key is never rewritten before reset (R21, R104). -/
def Obligations.HeldKeyIsImmutable : Prop :=
  ∀ s t : State, s.Inv → step s = .next t → (∀ ms, s.moves ≠ .rst :: ms) → s.keyv = true → t.k = s.k ∧ t.keyv = true

/-- Nothing traps or stops the block: every state has a next state (R87, R225). -/
def Obligations.EveryStateSteps : Prop := ∀ s : State, ∃ t, step s = .next t

/-- A suspended block that is never answered stays as it is for ever (R256; log entry 9), and its run has no end and no outcome
(R260). -/
def Obligations.UnansweredRequestHangs : Prop :=
  ∀ (n : Nat) (s : State), s.hpend = true → s.moves = [] →
    Host.Core.run Sys2Proof.core n s = .next s ∧ runOutcome n s = none

/-- A suspended block whose request is answered goes on with the answer, whatever the host does meanwhile (R103, R62, with the
premises `HashAnswers` and `HashAvailable` of R261): the suspension ends, and with a digest the key is its head. A program, from any
state, ends with an outcome if every hash request of its run is answered and no reset breaks it off (R256, R260; log entry 18). -/
def Obligations.AnsweredRequestResumes : Prop :=
  (∀ s : State, s.hpend = true →
    (HashAnswers s → ∃ (pre : List Move) (a : HashAnswer) (ms : List Move), s.moves = pre ++ .hash a :: ms ∧
      Host.Core.run Sys2Proof.core (pre.length + 1) s = .next (State.answerHash a { s with moves := ms }) ∧
      (State.answerHash a { s with moves := ms }).hpend = false ∧ (State.answerHash a { s with moves := ms }).cmds = s.cmds) ∧
    (∀ d, HashAvailable d s → ∃ (n : Nat) (t : State), Host.Core.run Sys2Proof.core n s = .next t ∧ t.hpend = false ∧
      t.keyv = true ∧ t.k = keyWords d)) ∧
  ∀ (program : List CmdWord) (s : State), HashAnswers (s.launch program) → NoReset s → ∃ o, HasOutcome program s o

/-! ## What each command does, and what it leaves -/

/-- NOP does nothing, and is held back while `HPEND = 1` like any command (R187). -/
def Obligations.NopLeavesEverything : Prop :=
  decode 0x0000#16 = .command .nop ∧ (∀ s : State, exec .nop s = .next s) ∧
  ∀ (s : State) (ms : List Move) (rest : List CmdWord), s.hpend = true → HostMovesNext s ms → s.cmds = 0x0000#16 :: rest →
    step s = .next { s with moves := ms }

/-- START, whole (R122): its effect, and its corner cases: after reset it changes nothing, twice is once, it does not clear `FATAL`,
and the example's STATUS words. -/
def Obligations.StartClearsToken : Prop :=
  decode 0x0100#16 = .command .start ∧
  (∀ s : State, exec .start s =
    .next { s with acc := 0#128, ovf := false, badc := false, res := Results.empty, valid := false, err := 0#3 }) ∧
  (∀ s : State, AfterReset s → CleanToken s ∧ exec .start s = .next s) ∧
  (∀ s t : State, exec .start s = .next t → exec .start t = .next t) ∧
  (∀ s t : State, s.fatal = true → exec .start s = .next t →
    ∃ u, exec .decode t = .next u ∧ u.fatal = true ∧ u.err = 3#3) ∧
  ∀ s : State, statusWord s = 0x00000443#32 → ∃ t, exec .start s = .next t ∧ statusWord t = 0x00000001#32

/-- The digit of a character code (R121): by the three ranges, none for 194 codes, and as the position in the alphabet. -/
def Obligations.DigitOfCharacterCode : Prop :=
  (∀ c : Byte,
    (0x61 ≤ c.toNat ∧ c.toNat ≤ 0x7A → digit c = some (c.toNat - 0x61)) ∧
    (0x41 ≤ c.toNat ∧ c.toNat ≤ 0x5A → digit c = some (c.toNat - 0x41 + 26)) ∧
    (0x30 ≤ c.toNat ∧ c.toNat ≤ 0x39 → digit c = some (c.toNat - 0x30 + 52)) ∧
    (¬ (0x61 ≤ c.toNat ∧ c.toNat ≤ 0x7A) ∧ ¬ (0x41 ≤ c.toNat ∧ c.toNat ≤ 0x5A) ∧ ¬ (0x30 ≤ c.toNat ∧ c.toNat ≤ 0x39) →
      digit c = none)) ∧
  ((List.range 256).countP fun n => decide (digit (BitVec.ofNat 8 n) = none)) = 194 ∧
  ∀ (c : Byte) (d : Nat), digit c = some d ↔ Config.alphabet[d]? = some c

/-- PUSH, whole (R123): an invalid code only sets `BADC`; a digit is accumulated modulo 2^128, with `OVF` set from 2^128 on. -/
def Obligations.PushAppendsDigit : Prop :=
  ∀ (c : Byte) (s : State),
    decode (0x0200#16 + c.zeroExtend 16) = .command (.push c) ∧
    (digit c = none → exec (.push c) s = .next { s with badc := true }) ∧
    (∀ d, digit c = some d → exec (.push c) s =
      .next { s with acc := BitVec.ofNat 128 ((s.acc.toNat * 62 + d) % 2 ^ 128)
                     ovf := s.ovf || decide (s.acc.toNat * 62 + d ≥ 2 ^ 128) })

/-- KDF with the digest at once loads the key from its first 16 bytes and sets `KEYV` (R102, R103, R104; log entries 6, 7). -/
def Obligations.KdfLoadsKey : Prop :=
  ∀ (s : State) (d : Digest) (ms : List Move), s.keyv = false → s.fatal = false → s.hpend = false →
    s.moves = .hash (.digest d) :: ms →
    exec .kdf s = .next { s with k := ⟨keyWord d 0, keyWord d 1, keyWord d 2, keyWord d 3⟩, keyv := true, hpend := false
                                 pendcmd := .kdf, hreqs := s.hreqs + 1, moves := ms }

/-- The key words are the digest's first four 32-bit words, big-endian; its last 16 bytes are not used (R100, R53). -/
def Obligations.KeyWordsAreDigestHead : Prop :=
  ∀ d : Digest, (keyWords d).payload = d.extractLsb' 128 128 ∧
    ∀ i, i < 4 → ((keyWord d i).toNat =
      (digestByte d (4 * i)).toNat * 2 ^ 24 + (digestByte d (4 * i + 1)).toNat * 2 ^ 16 +
        (digestByte d (4 * i + 2)).toNat * 2 ^ 8 + (digestByte d (4 * i + 3)).toNat)

/-- With an honest hash primitive the key is `KeyWords(HASH256(SECRET))` (R100, R64; log entry 8). -/
def Obligations.HonestHashGivesSecretKey : Prop :=
  ∀ (s : State) (d : Digest) (ms : List Move), s.keyv = false → s.fatal = false → s.hpend = false → HonestHash s →
    s.moves = .hash (.digest d) :: ms →
    ∃ t, exec .kdf s = .next t ∧ t.keyv = true ∧ t.k = keyWords (Config.hash256 Config.secret)

/-- KDF with "unavailable" at once sets `FATAL`, and neither `K` nor `KEYV` changes (R102, R103, R105; log entries 6, 7). -/
def Obligations.KdfUnavailableSetsFatal : Prop :=
  ∀ (s : State) (ms : List Move), s.keyv = false → s.fatal = false → s.hpend = false → s.moves = .hash .unavailable :: ms →
    exec .kdf s = .next { s with fatal := true, hpend := false, pendcmd := .kdf, hreqs := s.hreqs + 1, moves := ms }

/-- KDF does nothing and issues no request when the key is held or derivation has failed for good (R102). -/
def Obligations.KdfHeldOrFatalDoesNothing : Prop :=
  ∀ s : State, s.keyv = true ∨ s.fatal = true → exec .kdf s = .next s

/-- KDF and DECODE without a key and without an answer at once issue one request and suspend (R102, R103, R181). -/
def Obligations.DerivationSuspends : Prop :=
  ∀ s : State, s.keyv = false → s.fatal = false → s.hpend = false → NoAnswerNext s →
    exec .kdf s = .next { s with pendcmd := .kdf, hpend := true, hreqs := s.hreqs + 1 } ∧
    exec .decode s = .next { s with pendcmd := .decode, hpend := true, hreqs := s.hreqs + 1 }

/-- The answer ends a suspended KDF (R103, R104, R105; log entry 7). -/
def Obligations.AnswerEndsSuspendedKdf : Prop :=
  ∀ (s : State) (ms : List Move), s.hpend = true → s.pendcmd = .kdf →
    (∀ d, s.moves = .hash (.digest d) :: ms →
      step s = .next { s with k := keyWords d, keyv := true, hpend := false, moves := ms }) ∧
    (s.moves = .hash .unavailable :: ms → step s = .next { s with fatal := true, hpend := false, moves := ms })

/-- A suspended DECODE goes on with stages 2 to 4 once its key has come, and fails with code 3 if none can come (R103, R181;
log entry 7). -/
def Obligations.AnswerResumesSuspendedDecode : Prop :=
  ∀ (s : State) (ms : List Move), s.hpend = true → s.pendcmd = .decode →
    (∀ d, s.moves = .hash (.digest d) :: ms →
      step s = exec .decode { s with k := keyWords d, keyv := true, hpend := false, pendcmd := .kdf, moves := ms }) ∧
    (s.moves = .hash .unavailable :: ms →
      step s = .next { s with fatal := true, hpend := false, pendcmd := .kdf, moves := ms, res := Results.empty
                              valid := false, err := 3#3 })

/-- DECODE without a key derives it first, whatever the token, and then is a DECODE with that key; if the hash primitive is
unavailable it fails with code 3 (R181, R222; log entries 6, 7). -/
def Obligations.DecodeDerivesKeyFirst : Prop :=
  ∀ (s : State) (ms : List Move), s.keyv = false → s.fatal = false → s.hpend = false →
    (∀ d, s.moves = .hash (.digest d) :: ms →
      exec .decode s =
        exec .decode { s with k := keyWords d, keyv := true, pendcmd := .kdf, hreqs := s.hreqs + 1, moves := ms }) ∧
    (s.moves = .hash .unavailable :: ms →
      exec .decode s = .next { s with fatal := true, pendcmd := .kdf, hreqs := s.hreqs + 1, moves := ms
                                      res := Results.empty, valid := false, err := 3#3 })

/-- A DECODE that passes its tests: the four plaintext words (R144), the fields as slices of the payload (R160, R162), the advisory
flags (R163), `VALID = 1`, `ERR = 0`; every other element, the working registers apart, is unchanged (R181; log entry 4). -/
def Obligations.DecodeDecryptsAndSlices : Prop :=
  ∀ s : State, s.keyv = true → s.fatal = false → s.badc = false → s.ovf = false →
    ∃ t, exec .decode s = .next t ∧
      (t.res.pt.w0, t.res.pt.w1) = decryptBlock (ctWord s.acc 0) (ctWord s.acc 1) s.k ∧
      (t.res.pt.w2, t.res.pt.w3) = decryptBlock (ctWord s.acc 2) (ctWord s.acc 3) s.k ∧
      t.res.Sliced ∧ t.valid = true ∧ t.err = 0#3 ∧
      t.visible = ({ s with res := t.res, valid := true, err := 0#3 } : State).visible

/-- A DECODE that fails: exactly one code in the order of R226, and the failure path of R224 is its whole effect. -/
def Obligations.DecodeFailurePath : Prop :=
  ∀ s : State,
    (s.fatal = true → exec .decode s = .next { s with res := Results.empty, valid := false, err := 3#3 }) ∧
    (s.keyv = true → s.fatal = false → s.badc = true →
      exec .decode s = .next { s with res := Results.empty, valid := false, err := 1#3 }) ∧
    (s.keyv = true → s.fatal = false → s.badc = false → s.ovf = true →
      exec .decode s = .next { s with res := Results.empty, valid := false, err := 2#3 })

/-- DECODE issued twice gives what it gave once, the working registers apart (R57, R181 (b); log entry 4). -/
def Obligations.DecodeTwiceIsDecodeOnce : Prop :=
  ∀ s t : State, s.keyv = true ∨ s.fatal = true → exec .decode s = .next t →
    ∃ u, exec .decode t = .next u ∧ u.visible = t.visible

/-- RD of each select delivers the word of R61 and changes nothing else; the word of a reserved select yields 0 and sets `CMDERR`. -/
def Obligations.ReadDeliversSelectedWord : Prop :=
  ∀ s : State,
    let reads := fun (sel : Byte) (w : Word) => exec (.rd sel) s = .next { s with rsps := s.rsps ++ [w] }
    reads 0#8 (statusWord s) ∧ reads 1#8 ((s.res.phone.extractLsb' 32 8).zeroExtend 32) ∧
    reads 2#8 (s.res.phone.extractLsb' 0 32) ∧ reads 3#8 (s.res.settle.zeroExtend 32) ∧
    reads 4#8 (s.res.pending.zeroExtend 32) ∧ reads 5#8 (s.res.bank.zeroExtend 32) ∧ reads 6#8 (s.res.nbfc.zeroExtend 32) ∧
    reads 7#8 (s.res.pad.zeroExtend 32) ∧
    reads 8#8 (s.acc.extractLsb' 96 32) ∧ reads 9#8 (s.acc.extractLsb' 64 32) ∧ reads 10#8 (s.acc.extractLsb' 32 32) ∧
    reads 11#8 (s.acc.extractLsb' 0 32) ∧
    reads 12#8 s.res.pt.w0 ∧ reads 13#8 s.res.pt.w1 ∧ reads 14#8 s.res.pt.w2 ∧ reads 15#8 s.res.pt.w3 ∧
    ∀ sel : Byte, 16 ≤ sel.toNat →
      issueWord (0x05#8 ++ sel) s = .next { s with cmderr := true, rsps := s.rsps ++ [0x00000000#32] }

/-- The STATUS word, bit by bit (R37). -/
def Obligations.StatusWordLayout : Prop :=
  ∀ s : State,
    (statusWord s).getLsbD 0 = s.keyv ∧ (statusWord s).getLsbD 1 = s.valid ∧ (statusWord s).extractLsb' 2 3 = s.err ∧
    (statusWord s).getLsbD 5 = s.fatal ∧ (statusWord s).getLsbD 6 = s.badc ∧ (statusWord s).getLsbD 7 = s.ovf ∧
    (statusWord s).getLsbD 8 = s.res.padnz ∧ (statusWord s).getLsbD 9 = s.res.shi ∧ (statusWord s).getLsbD 10 = s.res.phi ∧
    (statusWord s).getLsbD 11 = s.cmderr ∧ (statusWord s).extractLsb' 12 20 = 0#20

/-- With `VALID = 0` the field and plaintext selects read 0 (R185 (a), R32). -/
def Obligations.EmptyResultReadsZero : Prop :=
  ∀ (s : State) (sel : Byte), s.Inv → s.valid = false →
    (1 ≤ sel.toNat ∧ sel.toNat ≤ 7) ∨ (12 ≤ sel.toNat ∧ sel.toNat ≤ 15) →
    exec (.rd sel) s = .next { s with rsps := s.rsps ++ [0#32] }

/-- One response word for each RD command, appended in order, none for any other command, nor for what a suspended command still does
when its answer comes (R63). -/
def Obligations.OneResponsePerRead : Prop :=
  (∀ (i : Instr) (s t : State), exec i s = .next t →
    (∀ sel, i = .rd sel → ∃ w, t.rsps = s.rsps ++ [w]) ∧ ((∀ sel, i ≠ .rd sel) → t.rsps = s.rsps)) ∧
  ∀ (a : HashAnswer) (s : State), (s.answerHash a).rsps = s.rsps

/-- KDF, DECODE, RD and NOP change no token state, a suspended KDF or DECODE neither when its answer comes (R28). -/
def Obligations.TokenStateKeptByOthers : Prop :=
  (∀ (i : Instr) (s t : State), i = .kdf ∨ i = .decode ∨ i = .nop ∨ (∃ sel, i = .rd sel) → exec i s = .next t →
    t.acc = s.acc ∧ t.ovf = s.ovf ∧ t.badc = s.badc) ∧
  ∀ (a : HashAnswer) (s : State),
    (s.answerHash a).acc = s.acc ∧ (s.answerHash a).ovf = s.ovf ∧ (s.answerHash a).badc = s.badc

/-- The frame of each command: every element its rule does not write keeps its value (R38). There is no memory; the ciphertext view
is `ACC`. -/
def Obligations.CommandFrames : Prop :=
  ∀ s t : State,
    (exec .start s = .next t →
      t.k = s.k ∧ t.keyv = s.keyv ∧ t.fatal = s.fatal ∧ t.hpend = s.hpend ∧ t.pendcmd = s.pendcmd ∧ t.work = s.work ∧
      t.cmderr = s.cmderr ∧ t.cmds = s.cmds ∧ t.rsps = s.rsps ∧ t.hreqs = s.hreqs ∧ t.moves = s.moves) ∧
    (∀ c, exec (.push c) s = .next t →
      t.k = s.k ∧ t.keyv = s.keyv ∧ t.fatal = s.fatal ∧ t.hpend = s.hpend ∧ t.pendcmd = s.pendcmd ∧ t.work = s.work ∧
      t.res = s.res ∧ t.valid = s.valid ∧ t.err = s.err ∧ t.cmderr = s.cmderr ∧ t.cmds = s.cmds ∧ t.rsps = s.rsps ∧
      t.hreqs = s.hreqs ∧ t.moves = s.moves) ∧
    (exec .kdf s = .next t →
      t.acc = s.acc ∧ t.ovf = s.ovf ∧ t.badc = s.badc ∧ t.work = s.work ∧ t.res = s.res ∧ t.valid = s.valid ∧
      t.err = s.err ∧ t.cmderr = s.cmderr ∧ t.cmds = s.cmds ∧ t.rsps = s.rsps) ∧
    (exec .decode s = .next t →
      t.acc = s.acc ∧ t.ovf = s.ovf ∧ t.badc = s.badc ∧ t.cmderr = s.cmderr ∧ t.cmds = s.cmds ∧ t.rsps = s.rsps) ∧
    (∀ sel : Byte, sel.toNat < 16 → exec (.rd sel) s = .next t → t = { s with rsps := t.rsps })

/-- A command that finds the key held or `FATAL` set leaves the key unit alone and issues no request (R64, R102, R106). -/
def Obligations.SettledKeyUnitIsLeftAlone : Prop :=
  ∀ (i : Instr) (s t : State), s.keyv = true ∨ s.fatal = true → exec i s = .next t →
    t.k = s.k ∧ t.keyv = s.keyv ∧ t.fatal = s.fatal ∧ t.hpend = s.hpend ∧ t.pendcmd = s.pendcmd ∧ t.hreqs = s.hreqs ∧
      t.moves = s.moves

/-- No response of RD depends on the key, the suspension bits or the cipher working registers (R21, R186, R231). -/
def Obligations.ReadsCannotReachKey : Prop :=
  ∀ (s t t' : State) (sel : Byte) (k : Words4) (h : Bool) (p : PendCmd) (w : CipherRegs),
    exec (.rd sel) s = .next t → exec (.rd sel) { s with k := k, hpend := h, pendcmd := p, work := w } = .next t' →
    t'.rsps = t.rsps

/-- The value `K` holds while `KEYV = 0` is read by no step: the value the model names for it at reset (log entry 2) cannot be
observed (R21). -/
def Obligations.UnheldKeyIsUnobservable : Prop :=
  ∀ (s t : State) (k : Words4), s.keyv = false → step s = .next t →
    ∃ t', step { s with k := k } = .next t' ∧ (t' = t ∨ (t.keyv = false ∧ t' = { t with k := k }))

/-! ## The ciphertext view, the cipher and the slicer -/

/-- The ciphertext view and its read (R52): bytes and words are the slices of `ACC`, and `MemRead` of any range is the big-endian
integer of its bytes. -/
def Obligations.CiphertextViewIsAccumulator : Prop :=
  ∀ acc : Wide,
    (∀ i, i < 16 → (ctByte acc i).toNat = acc.toNat / 2 ^ (120 - 8 * i) % 256) ∧
    (∀ a n, a + n ≤ 16 → memRead acc a n = acc.toNat / 2 ^ (8 * (16 - a - n)) % 2 ^ (8 * n)) ∧
    (∀ j, j < 4 → ctWord acc j = acc.extractLsb' (96 - 32 * j) 32)

/-- DecryptBlock and EncryptBlock are inverse to each other for every key, so both are bijections (R147). -/
def Obligations.DecryptInvertsEncrypt : Prop :=
  ∀ key : Words4,
    (∀ v0 v1 : Word,
      decryptBlock (encryptBlock v0 v1 key).1 (encryptBlock v0 v1 key).2 key = (v0, v1) ∧
      encryptBlock (decryptBlock v0 v1 key).1 (decryptBlock v0 v1 key).2 key = (v0, v1)) ∧
    Function.Bijective (fun b : Word × Word => decryptBlock b.1 b.2 key) ∧
    Function.Bijective (fun b : Word × Word => encryptBlock b.1 b.2 key)

/-- `SUM` at the start of round r is `DELTA × (32 − r) mod 2^32`, whatever the data and the key, and 0 after round 31; `RND` counts
the rounds (R143). -/
def Obligations.SumScheduleIsFixed : Prop :=
  ∀ (key : Words4) (blk : BitVec 1) (v0 v1 : Word) (r : Nat), r ≤ 32 →
    (decryptRounds key r (cipherLoad blk v0 v1)).sum = BitVec.ofNat 32 (0x9E3779B9 * (32 - r)) ∧
    (decryptRounds key r (cipherLoad blk v0 v1)).rnd.toNat = r

/-- Known answers of the cipher: vectors B2, B3, B6, B7, B12, B13, B14, B15 of 95_test_vectors.md. -/
def Obligations.CipherKnownAnswers : Prop :=
  decryptBlock 0x41EA3A0A#32 0x94BAA940#32 ⟨0#32, 0#32, 0#32, 0#32⟩ = (0#32, 0#32) ∧
  decryptBlock 0#32 0#32 ⟨0#32, 0#32, 0#32, 0#32⟩ = (0x1423FF6D#32, 0x9216EF3A#32) ∧
  decryptBlock 0x126C6B92#32 0xC0653A3E#32 ⟨0x00112233#32, 0x44556677#32, 0x8899AABB#32, 0xCCDDEEFF#32⟩ =
    (0x01234567#32, 0x89ABCDEF#32) ∧
  decryptBlock 0xFFFFFFFF#32 0xFFFFFFFF#32 ⟨0xFFFFFFFF#32, 0xFFFFFFFF#32, 0xFFFFFFFF#32, 0xFFFFFFFF#32⟩ =
    (0x4661B456#32, 0x35944E26#32) ∧
  decryptBlock 0#32 0#32 ⟨1#32, 0#32, 0#32, 0#32⟩ = (0xC015AF93#32, 0x5EC3C771#32) ∧
  decryptBlock 0#32 0#32 ⟨0#32, 0#32, 0#32, 1#32⟩ = (0xB82225F2#32, 0xBCF7BB44#32) ∧
  decryptBlock 1#32 0#32 ⟨0#32, 0#32, 0#32, 0#32⟩ = (0x8A9938F4#32, 0x521127F6#32) ∧
  decryptBlock 0#32 1#32 ⟨0#32, 0#32, 0#32, 0#32⟩ = (0xCDD153DB#32, 0x422BC105#32)

/-- The two blocks are decrypted independently (R145): each half of `PT` depends on its half of `ACC` and the key alone, and equal
ciphertext blocks give equal plaintext blocks. -/
def Obligations.BlocksDecryptIndependently : Prop :=
  ∀ s s' t t' : State, s.keyv = true → s'.keyv = true → s.k = s'.k → exec .decode s = .next t → exec .decode s' = .next t' →
    t.valid = true → t'.valid = true →
    (s.acc.extractLsb' 64 64 = s'.acc.extractLsb' 64 64 → t.res.pt.w0 = t'.res.pt.w0 ∧ t.res.pt.w1 = t'.res.pt.w1) ∧
    (s.acc.extractLsb' 0 64 = s'.acc.extractLsb' 0 64 → t.res.pt.w2 = t'.res.pt.w2 ∧ t.res.pt.w3 = t'.res.pt.w3) ∧
    (s.acc.extractLsb' 64 64 = s.acc.extractLsb' 0 64 → t.res.pt.w0 = t.res.pt.w2 ∧ t.res.pt.w1 = t.res.pt.w3)

/-- Slicing by any width list loses nothing: the pad and the fields at their offsets make up the payload again (R161). -/
def Obligations.LayoutPartitionsPayload : Prop :=
  ∀ (layout : List Nat) (p : Nat),
    padOf layout p * 2 ^ layout.sum +
      ((List.range layout.length).map fun i => fieldOf layout p i * 2 ^ fieldOffset layout i).sum = p

/-- The source's unmasked phone formula is `PAD × 2^40 + PHONE` (R162, 90_conflicts.md C1). -/
def Obligations.UnmaskedPhoneIsPadAndPhone : Prop :=
  ∀ pt : Words4, pt.payload.toNat >>> 80 = (unpack pt).pad.toNat * 2 ^ 40 + (unpack pt).phone.toNat

/-- Five field values packed with a zero pad and encrypted are recovered by DECODE (R183 (e), R147). -/
def Obligations.PackedFieldsAreRecovered : Prop :=
  ∀ (s : State) (phone : BitVec 40) (settle pending : BitVec 30) (bank nbfc : BitVec 10),
    s.keyv = true → s.fatal = false → s.badc = false → s.ovf = false →
    s.acc = (encryptWords (Words4.ofPayload (pack 0#8 phone settle pending bank nbfc)) s.k).payload →
    ∃ t, exec .decode s = .next t ∧ t.valid = true ∧ t.res.pad = 0#8 ∧ t.res.phone = phone ∧ t.res.settle = settle ∧
      t.res.pending = pending ∧ t.res.bank = bank ∧ t.res.nbfc = nbfc ∧ t.res.padnz = false

/-! ## Whole tokens -/

/-- START and one PUSH per character compute the transcoder's function (R125, R124), from any state in which the block takes commands
(one that waits takes none: `SuspendedBlockTakesNoWord`). -/
def Obligations.StreamedTokenMatchesDecode62 : Prop :=
  ∀ (tok : List Byte) (s : State), s.hpend = false → ∃ t, execAll (.start :: tok.map .push) s = .next t ∧
    (t.badc = true ↔ ∃ c ∈ tok, digit c = none) ∧
    (t.badc = false → ∃ ds, tokenDigits tok = some ds ∧ (t.ovf = true ↔ 2 ^ 128 ≤ digitsValue ds) ∧
      (t.ovf = false → t.acc.toNat = digitsValue ds ∧
        ∀ i, i < 16 → (ctByte t.acc i).toNat = digitsValue ds / 2 ^ (8 * (15 - i)) % 256))

/-- START, the token, DECODE with a held key (the premise `KeyHeld` of R261) give the source's function of the token (R180, R182): all
fields, or an explicit empty result with the error's code. The run of the canonical sequence (R190), KDF first or not, has that
outcome (R260), its responses the words of STATUS and of the fields; here the host alone moves. -/
def Obligations.TokenDecodeMatchesSource : Prop :=
  ∀ (tok : List Byte) (key : Words4) (s : State), KeyHeld key s → s.hpend = false →
    (∃ t, execAll (.start :: tok.map .push ++ [.decode]) s = .next t ∧
      match decodeToken key tok with
      | .ok r => t.valid = true ∧ t.err = 0#3 ∧ t.res = r
      | .error e => t.valid = false ∧ t.err = e.code ∧ t.res = Results.empty) ∧
    (s.moves = [] → ∀ withKdf : Bool, ∃ o, HasOutcome ((canonicalSequence withKdf tok).map encode) s o ∧
      o.responses = [statusWord o.final, selectWord o.final .phoneHi, selectWord o.final .phoneLo, selectWord o.final .settle,
        selectWord o.final .pending, selectWord o.final .bank, selectWord o.final .nbfc, selectWord o.final .pad] ∧
      match decodeToken key tok with
      | .ok r => o.final.valid = true ∧ o.final.err = 0#3 ∧ o.final.res = r
      | .error e => o.final.valid = false ∧ o.final.err = e.code ∧ o.final.res = Results.empty)

/-- Once `FATAL` is set no commands make the block usable again: whatever was issued, the next DECODE reports code 3; START clears
`ERR` and nothing more of it (R257). -/
def Obligations.FatalFailsEveryToken : Prop :=
  ∀ s : State, s.fatal = true →
    (∀ is : List Instr, s.hpend = false → ∃ t, execAll (is ++ [.decode]) s = .next t ∧ t.fatal = true ∧ t.valid = false ∧ t.err = 3#3 ∧
      t.res = Results.empty) ∧
    ∃ t, exec .start s = .next t ∧ t.err = 0#3 ∧ t.fatal = true

/-- Which tokens fit is a matter of the value, not of the number of symbols (R127); the two tokens written out are
`hXecnqwfDPVUjXiW3hpRMh` and `hXecnqwfDPVUjXiW3hpRMi`. -/
def Obligations.TokenLengthAndValueLimit : Prop :=
  (62 ^ 21 = 0x20DB5AE453A9690B6BF0D0B753E00000 ∧ 62 ^ 21 < 2 ^ 128 ∧ 2 ^ 128 < 62 ^ 22) ∧
  (∀ (tok : List Byte) (ds : List Nat), tokenDigits tok = some ds →
    (tok.length ≤ 21 → ∃ v, decode62 tok = .ok v) ∧
    (decode62 tok = .error .tokenTooLong ↔ digitsValue ds > 2 ^ 128 - 1)) ∧
  (decode62 [0x68#8, 0x58#8, 0x65#8, 0x63#8, 0x6E#8, 0x71#8, 0x77#8, 0x66#8, 0x44#8, 0x50#8, 0x56#8, 0x55#8, 0x6A#8, 0x58#8,
    0x69#8, 0x57#8, 0x33#8, 0x68#8, 0x70#8, 0x52#8, 0x4D#8, 0x68#8] = .ok (BitVec.ofNat 128 (2 ^ 128 - 1))) ∧
  (tokenDigits [0x68#8, 0x58#8, 0x65#8, 0x63#8, 0x6E#8, 0x71#8, 0x77#8, 0x66#8, 0x44#8, 0x50#8, 0x56#8, 0x55#8, 0x6A#8, 0x58#8,
    0x69#8, 0x57#8, 0x33#8, 0x68#8, 0x70#8, 0x52#8, 0x4D#8, 0x69#8]).map digitsValue = some (2 ^ 128) ∧
  (∀ (n : Nat) (tok : List Byte), decode62 (List.replicate n 0x61#8 ++ tok) = decode62 tok) ∧
  decode62 (List.replicate 30 0x61#8 ++ [0x62#8]) = .ok 1#128

/-- Leading `a` symbols change nothing (R129, R183 (c), R126). -/
def Obligations.LeadingZeroSymbolsAreIgnored : Prop :=
  ∀ (n : Nat) (tok : List Byte) (s : State), s.hpend = false →
    execAll (.start :: (List.replicate n 0x61#8 ++ tok).map .push) s = execAll (.start :: tok.map .push) s

/-! ## Host side -/

/-- Names and lender (R201, R202). -/
def Obligations.NamesAndLender : Prop :=
  (∀ (table : List (Nat × String)) (code : Nat),
    (code = 0 ∨ 50 < code → nameOf table code = "Unknown") ∧
    (table.lookup code = none → nameOf table code = "Unknown") ∧
    (∀ n, 1 ≤ code → code ≤ 50 → table.lookup code = some n → nameOf table code = n)) ∧
  ∀ bankName nbfcName : String,
    (nbfcName ≠ "Unknown" → lenderOf bankName nbfcName = nbfcName) ∧
    (nbfcName = "Unknown" → lenderOf bankName nbfcName = bankName)

/-- The host's outcome from the words it reads (R205, R207, R204): the profile of the registers with `VALID = 1`, else the error of
`ERR`; `NoTokenPresent` is the host's own. -/
def Obligations.HostOutcomeFromReads : Prop :=
  ∀ (tables : LookupTables) (s : State),
    let read : FieldWords := ⟨selectWord s .status, selectWord s .phoneHi, selectWord s .phoneLo, selectWord s .settle,
      selectWord s .pending, selectWord s .bank, selectWord s .nbfc, selectWord s .pad⟩
    (s.valid = true → ∃ p, hostOutcome tables read = some (.ok p) ∧ p.phone = decimalDigits s.res.phone.toNat ∧
      p.pendingAmount = s.res.pending.toNat ∧ p.maxSettlement = s.res.pending.toNat ∧ p.minSettlement = s.res.settle.toNat ∧
      p.bankName = nameOf tables.bank s.res.bank.toNat ∧ p.nbfcName = nameOf tables.nbfc s.res.nbfc.toNat ∧
      p.lender = lenderOf p.bankName p.nbfcName) ∧
    (s.valid = false → s.err = 1#3 → hostOutcome tables read = some (.error .invalidTokenCharacter)) ∧
    (s.valid = false → s.err = 2#3 → hostOutcome tables read = some (.error .tokenTooLong)) ∧
    (s.valid = false → s.err = 3#3 → hostOutcome tables read = some (.error .environmentUnavailable)) ∧
    hostOutcomeOf tables none read = some (.error .noTokenPresent)
end

