-- ==== Sys2Proof/Laws/Cipher.lean ====
section
/-! SUPPORT. Small lemmas of the cipher rounds (43_block_cipher.md R141, R147). -/

namespace Sys2Proof.Machine

@[simp] theorem decryptRounds_zero (key : Words4) (r : CipherRegs) : decryptRounds key 0 r = r := rfl

/-- The first of `n + 1` rounds comes first. -/
theorem decryptRounds_succ (key : Words4) (n : Nat) (r : CipherRegs) :
    decryptRounds key (n + 1) r = decryptRounds key n (decryptRound key r) := rfl

/-- Rounds compose. -/
theorem decryptRounds_add (key : Words4) (m n : Nat) (r : CipherRegs) :
    decryptRounds key (m + n) r = decryptRounds key n (decryptRounds key m r) := by
  induction m generalizing r with
  | zero => simp
  | succ m ih => rw [Nat.succ_add, decryptRounds_succ, decryptRounds_succ, ih]

/-- The last of `n + 1` rounds comes last. -/
theorem decryptRounds_succ' (key : Words4) (n : Nat) (r : CipherRegs) :
    decryptRounds key (n + 1) r = decryptRound key (decryptRounds key n r) := by
  rw [decryptRounds_add]
  rfl

@[simp] theorem decryptRound_v0 (key : Words4) (r : CipherRegs) :
    (decryptRound key r).v0 = r.v0 - cipherMix (decryptRound key r).v1 r.sum key.w0 key.w1 := rfl

@[simp] theorem decryptRound_v1 (key : Words4) (r : CipherRegs) :
    (decryptRound key r).v1 = r.v1 - cipherMix r.v0 r.sum key.w2 key.w3 := rfl

@[simp] theorem decryptRound_sum (key : Words4) (r : CipherRegs) : (decryptRound key r).sum = r.sum - Config.delta := rfl

@[simp] theorem decryptRound_rnd (key : Words4) (r : CipherRegs) : (decryptRound key r).rnd = r.rnd + 1#6 := rfl

@[simp] theorem decryptRound_blk (key : Words4) (r : CipherRegs) : (decryptRound key r).blk = r.blk := rfl

/-- The halves and the constant of the rounds do not depend on `RND` and `BLK`. -/
theorem decryptRounds_congr (key : Words4) (n : Nat) {a b : CipherRegs} (h0 : a.v0 = b.v0) (h1 : a.v1 = b.v1)
    (hs : a.sum = b.sum) :
    (decryptRounds key n a).v0 = (decryptRounds key n b).v0 ∧ (decryptRounds key n a).v1 = (decryptRounds key n b).v1 := by
  induction n generalizing a b with
  | zero => exact ⟨h0, h1⟩
  | succ n ih => exact ih (by simp [h0, h1, hs]) (by simp [h0, h1, hs]) (by simp [hs])

/-- A cipher block decrypted, from the working registers after the rounds. -/
theorem decryptBlockOn_eq (blk : BitVec 1) (v0 v1 : Word) (key : Words4) :
    decryptBlockOn blk v0 v1 key =
      ((decryptRounds key Config.rounds (cipherLoad blk v0 v1)).v0, (decryptRounds key Config.rounds (cipherLoad blk v0 v1)).v1) :=
  rfl

/-- The halves after any number of rounds do not depend on which of the two blocks is in work. -/
theorem decryptRounds_blk (key : Words4) (n : Nat) (blk : BitVec 1) (v0 v1 : Word) :
    (decryptRounds key n (cipherLoad blk v0 v1)).v0 = (decryptRounds key n (cipherLoad 0#1 v0 v1)).v0 ∧
      (decryptRounds key n (cipherLoad blk v0 v1)).v1 = (decryptRounds key n (cipherLoad 0#1 v0 v1)).v1 :=
  decryptRounds_congr key n rfl rfl rfl

/-- The result of a cipher block does not depend on which of the two blocks it is. -/
theorem decryptBlockOn_blk (blk : BitVec 1) (v0 v1 : Word) (key : Words4) :
    decryptBlockOn blk v0 v1 key = decryptBlock v0 v1 key := by
  have h := decryptRounds_blk key Config.rounds blk v0 v1
  unfold decryptBlock
  rw [decryptBlockOn_eq, decryptBlockOn_eq, h.1, h.2]

@[simp] theorem encryptRounds_zero (key : Words4) (r : CipherRegs) : encryptRounds key 0 r = r := rfl

/-- The first encryption round comes first. -/
theorem encryptRounds_succ (key : Words4) (n : Nat) (r : CipherRegs) :
    encryptRounds key (n + 1) r = encryptRounds key n (encryptRound key r) := rfl

/-- A block encrypted, from the record after the rounds. -/
theorem encryptBlock_eq (v0 v1 : Word) (key : Words4) :
    encryptBlock v0 v1 key =
      ((encryptRounds key Config.rounds ⟨v0, v1, 0#32, 0#6, 0#1⟩).v0,
       (encryptRounds key Config.rounds ⟨v0, v1, 0#32, 0#6, 0#1⟩).v1) :=
  rfl

/-- The last encryption round comes last. -/
theorem encryptRounds_succ' (key : Words4) (n : Nat) (r : CipherRegs) :
    encryptRounds key (n + 1) r = encryptRound key (encryptRounds key n r) := by
  induction n generalizing r with
  | zero => rfl
  | succ n ih => rw [encryptRounds_succ, ih, encryptRounds_succ]

/-- The halves and the constant of the encryption rounds do not depend on `RND` and `BLK`. -/
theorem encryptRounds_congr (key : Words4) (n : Nat) {a b : CipherRegs} (h0 : a.v0 = b.v0) (h1 : a.v1 = b.v1)
    (hs : a.sum = b.sum) :
    (encryptRounds key n a).v0 = (encryptRounds key n b).v0 ∧ (encryptRounds key n a).v1 = (encryptRounds key n b).v1 := by
  induction n generalizing a b with
  | zero => exact ⟨h0, h1⟩
  | succ n ih =>
    exact ih (by simp [encryptRound, h0, h1, hs]) (by simp [encryptRound, h0, h1, hs]) (by simp [encryptRound, hs])

/-- One decryption round undoes one encryption round. -/
theorem decryptRound_encryptRound (key : Words4) (r : CipherRegs) : decryptRound key (encryptRound key r) = r := by
  simp [encryptRound, decryptRound, Config.delta]

/-- One encryption round undoes one decryption round. -/
theorem encryptRound_decryptRound (key : Words4) (r : CipherRegs) : encryptRound key (decryptRound key r) = r := by
  simp [encryptRound, decryptRound, Config.delta]

@[simp] theorem encryptRound_sum (key : Words4) (r : CipherRegs) : (encryptRound key r).sum = r.sum + Config.delta := rfl

end Sys2Proof.Machine
end

