-- ==== Sys2Proof/Laws/State.lean ====
section
/-! SUPPORT. What each named update does to each field of the state, one lemma per field per update, so that no proof unfolds a
record update; the same for the two updates that answer a hash request, and the fields of the reset state. -/

namespace Sys2Proof.Machine

/-! `respond` -/

@[simp] theorem State.respond_k (v : Word) (s : State) : (s.respond v).k = s.k := rfl
@[simp] theorem State.respond_keyv (v : Word) (s : State) : (s.respond v).keyv = s.keyv := rfl
@[simp] theorem State.respond_fatal (v : Word) (s : State) : (s.respond v).fatal = s.fatal := rfl
@[simp] theorem State.respond_hpend (v : Word) (s : State) : (s.respond v).hpend = s.hpend := rfl
@[simp] theorem State.respond_pendcmd (v : Word) (s : State) : (s.respond v).pendcmd = s.pendcmd := rfl
@[simp] theorem State.respond_acc (v : Word) (s : State) : (s.respond v).acc = s.acc := rfl
@[simp] theorem State.respond_ovf (v : Word) (s : State) : (s.respond v).ovf = s.ovf := rfl
@[simp] theorem State.respond_badc (v : Word) (s : State) : (s.respond v).badc = s.badc := rfl
@[simp] theorem State.respond_work (v : Word) (s : State) : (s.respond v).work = s.work := rfl
@[simp] theorem State.respond_res (v : Word) (s : State) : (s.respond v).res = s.res := rfl
@[simp] theorem State.respond_valid (v : Word) (s : State) : (s.respond v).valid = s.valid := rfl
@[simp] theorem State.respond_err (v : Word) (s : State) : (s.respond v).err = s.err := rfl
@[simp] theorem State.respond_cmderr (v : Word) (s : State) : (s.respond v).cmderr = s.cmderr := rfl
@[simp] theorem State.respond_cmds (v : Word) (s : State) : (s.respond v).cmds = s.cmds := rfl
@[simp] theorem State.respond_rsps (v : Word) (s : State) : (s.respond v).rsps = s.rsps ++ [v] := rfl
@[simp] theorem State.respond_hreqs (v : Word) (s : State) : (s.respond v).hreqs = s.hreqs := rfl
@[simp] theorem State.respond_moves (v : Word) (s : State) : (s.respond v).moves = s.moves := rfl
@[simp] theorem State.respond_freeCount (v : Word) (s : State) : (s.respond v).freeCount = s.freeCount := rfl

/-! `raise` -/

@[simp] theorem State.raise_k (e : DecodeError) (s : State) : (s.raise e).k = s.k := rfl
@[simp] theorem State.raise_keyv (e : DecodeError) (s : State) : (s.raise e).keyv = s.keyv := rfl
@[simp] theorem State.raise_fatal (e : DecodeError) (s : State) : (s.raise e).fatal = s.fatal := rfl
@[simp] theorem State.raise_hpend (e : DecodeError) (s : State) : (s.raise e).hpend = s.hpend := rfl
@[simp] theorem State.raise_pendcmd (e : DecodeError) (s : State) : (s.raise e).pendcmd = s.pendcmd := rfl
@[simp] theorem State.raise_acc (e : DecodeError) (s : State) : (s.raise e).acc = s.acc := rfl
@[simp] theorem State.raise_ovf (e : DecodeError) (s : State) : (s.raise e).ovf = s.ovf := rfl
@[simp] theorem State.raise_badc (e : DecodeError) (s : State) : (s.raise e).badc = s.badc := rfl
@[simp] theorem State.raise_work (e : DecodeError) (s : State) : (s.raise e).work = s.work := rfl
@[simp] theorem State.raise_res (e : DecodeError) (s : State) : (s.raise e).res = Results.empty := rfl
@[simp] theorem State.raise_valid (e : DecodeError) (s : State) : (s.raise e).valid = false := rfl
@[simp] theorem State.raise_err (e : DecodeError) (s : State) : (s.raise e).err = e.code := rfl
@[simp] theorem State.raise_cmderr (e : DecodeError) (s : State) : (s.raise e).cmderr = s.cmderr := rfl
@[simp] theorem State.raise_cmds (e : DecodeError) (s : State) : (s.raise e).cmds = s.cmds := rfl
@[simp] theorem State.raise_rsps (e : DecodeError) (s : State) : (s.raise e).rsps = s.rsps := rfl
@[simp] theorem State.raise_hreqs (e : DecodeError) (s : State) : (s.raise e).hreqs = s.hreqs := rfl
@[simp] theorem State.raise_moves (e : DecodeError) (s : State) : (s.raise e).moves = s.moves := rfl
@[simp] theorem State.raise_freeCount (e : DecodeError) (s : State) : (s.raise e).freeCount = s.freeCount := rfl

/-! `clearToken` -/

@[simp] theorem State.clearToken_k (s : State) : (s.clearToken).k = s.k := rfl
@[simp] theorem State.clearToken_keyv (s : State) : (s.clearToken).keyv = s.keyv := rfl
@[simp] theorem State.clearToken_fatal (s : State) : (s.clearToken).fatal = s.fatal := rfl
@[simp] theorem State.clearToken_hpend (s : State) : (s.clearToken).hpend = s.hpend := rfl
@[simp] theorem State.clearToken_pendcmd (s : State) : (s.clearToken).pendcmd = s.pendcmd := rfl
@[simp] theorem State.clearToken_acc (s : State) : (s.clearToken).acc = 0#128 := rfl
@[simp] theorem State.clearToken_ovf (s : State) : (s.clearToken).ovf = false := rfl
@[simp] theorem State.clearToken_badc (s : State) : (s.clearToken).badc = false := rfl
@[simp] theorem State.clearToken_work (s : State) : (s.clearToken).work = s.work := rfl
@[simp] theorem State.clearToken_res (s : State) : (s.clearToken).res = Results.empty := rfl
@[simp] theorem State.clearToken_valid (s : State) : (s.clearToken).valid = false := rfl
@[simp] theorem State.clearToken_err (s : State) : (s.clearToken).err = 0#3 := rfl
@[simp] theorem State.clearToken_cmderr (s : State) : (s.clearToken).cmderr = s.cmderr := rfl
@[simp] theorem State.clearToken_cmds (s : State) : (s.clearToken).cmds = s.cmds := rfl
@[simp] theorem State.clearToken_rsps (s : State) : (s.clearToken).rsps = s.rsps := rfl
@[simp] theorem State.clearToken_hreqs (s : State) : (s.clearToken).hreqs = s.hreqs := rfl
@[simp] theorem State.clearToken_moves (s : State) : (s.clearToken).moves = s.moves := rfl
@[simp] theorem State.clearToken_freeCount (s : State) : (s.clearToken).freeCount = s.freeCount := rfl

/-! `markCmdErr` -/

@[simp] theorem State.markCmdErr_k (s : State) : (s.markCmdErr).k = s.k := rfl
@[simp] theorem State.markCmdErr_keyv (s : State) : (s.markCmdErr).keyv = s.keyv := rfl
@[simp] theorem State.markCmdErr_fatal (s : State) : (s.markCmdErr).fatal = s.fatal := rfl
@[simp] theorem State.markCmdErr_hpend (s : State) : (s.markCmdErr).hpend = s.hpend := rfl
@[simp] theorem State.markCmdErr_pendcmd (s : State) : (s.markCmdErr).pendcmd = s.pendcmd := rfl
@[simp] theorem State.markCmdErr_acc (s : State) : (s.markCmdErr).acc = s.acc := rfl
@[simp] theorem State.markCmdErr_ovf (s : State) : (s.markCmdErr).ovf = s.ovf := rfl
@[simp] theorem State.markCmdErr_badc (s : State) : (s.markCmdErr).badc = s.badc := rfl
@[simp] theorem State.markCmdErr_work (s : State) : (s.markCmdErr).work = s.work := rfl
@[simp] theorem State.markCmdErr_res (s : State) : (s.markCmdErr).res = s.res := rfl
@[simp] theorem State.markCmdErr_valid (s : State) : (s.markCmdErr).valid = s.valid := rfl
@[simp] theorem State.markCmdErr_err (s : State) : (s.markCmdErr).err = s.err := rfl
@[simp] theorem State.markCmdErr_cmderr (s : State) : (s.markCmdErr).cmderr = true := rfl
@[simp] theorem State.markCmdErr_cmds (s : State) : (s.markCmdErr).cmds = s.cmds := rfl
@[simp] theorem State.markCmdErr_rsps (s : State) : (s.markCmdErr).rsps = s.rsps := rfl
@[simp] theorem State.markCmdErr_hreqs (s : State) : (s.markCmdErr).hreqs = s.hreqs := rfl
@[simp] theorem State.markCmdErr_moves (s : State) : (s.markCmdErr).moves = s.moves := rfl
@[simp] theorem State.markCmdErr_freeCount (s : State) : (s.markCmdErr).freeCount = s.freeCount := rfl

/-! `reservedWord` -/

@[simp] theorem State.reservedWord_k (s : State) : (s.reservedWord).k = s.k := rfl
@[simp] theorem State.reservedWord_keyv (s : State) : (s.reservedWord).keyv = s.keyv := rfl
@[simp] theorem State.reservedWord_fatal (s : State) : (s.reservedWord).fatal = s.fatal := rfl
@[simp] theorem State.reservedWord_hpend (s : State) : (s.reservedWord).hpend = s.hpend := rfl
@[simp] theorem State.reservedWord_pendcmd (s : State) : (s.reservedWord).pendcmd = s.pendcmd := rfl
@[simp] theorem State.reservedWord_acc (s : State) : (s.reservedWord).acc = s.acc := rfl
@[simp] theorem State.reservedWord_ovf (s : State) : (s.reservedWord).ovf = s.ovf := rfl
@[simp] theorem State.reservedWord_badc (s : State) : (s.reservedWord).badc = s.badc := rfl
@[simp] theorem State.reservedWord_work (s : State) : (s.reservedWord).work = s.work := rfl
@[simp] theorem State.reservedWord_res (s : State) : (s.reservedWord).res = s.res := rfl
@[simp] theorem State.reservedWord_valid (s : State) : (s.reservedWord).valid = s.valid := rfl
@[simp] theorem State.reservedWord_err (s : State) : (s.reservedWord).err = s.err := rfl
@[simp] theorem State.reservedWord_cmderr (s : State) : (s.reservedWord).cmderr = true := rfl
@[simp] theorem State.reservedWord_cmds (s : State) : (s.reservedWord).cmds = s.cmds := rfl
@[simp] theorem State.reservedWord_rsps (s : State) : (s.reservedWord).rsps = s.rsps := rfl
@[simp] theorem State.reservedWord_hreqs (s : State) : (s.reservedWord).hreqs = s.hreqs := rfl
@[simp] theorem State.reservedWord_moves (s : State) : (s.reservedWord).moves = s.moves := rfl
@[simp] theorem State.reservedWord_freeCount (s : State) : (s.reservedWord).freeCount = s.freeCount := rfl

/-! `reservedRdWord` -/

@[simp] theorem State.reservedRdWord_k (s : State) : (s.reservedRdWord).k = s.k := rfl
@[simp] theorem State.reservedRdWord_keyv (s : State) : (s.reservedRdWord).keyv = s.keyv := rfl
@[simp] theorem State.reservedRdWord_fatal (s : State) : (s.reservedRdWord).fatal = s.fatal := rfl
@[simp] theorem State.reservedRdWord_hpend (s : State) : (s.reservedRdWord).hpend = s.hpend := rfl
@[simp] theorem State.reservedRdWord_pendcmd (s : State) : (s.reservedRdWord).pendcmd = s.pendcmd := rfl
@[simp] theorem State.reservedRdWord_acc (s : State) : (s.reservedRdWord).acc = s.acc := rfl
@[simp] theorem State.reservedRdWord_ovf (s : State) : (s.reservedRdWord).ovf = s.ovf := rfl
@[simp] theorem State.reservedRdWord_badc (s : State) : (s.reservedRdWord).badc = s.badc := rfl
@[simp] theorem State.reservedRdWord_work (s : State) : (s.reservedRdWord).work = s.work := rfl
@[simp] theorem State.reservedRdWord_res (s : State) : (s.reservedRdWord).res = s.res := rfl
@[simp] theorem State.reservedRdWord_valid (s : State) : (s.reservedRdWord).valid = s.valid := rfl
@[simp] theorem State.reservedRdWord_err (s : State) : (s.reservedRdWord).err = s.err := rfl
@[simp] theorem State.reservedRdWord_cmderr (s : State) : (s.reservedRdWord).cmderr = true := rfl
@[simp] theorem State.reservedRdWord_cmds (s : State) : (s.reservedRdWord).cmds = s.cmds := rfl
@[simp] theorem State.reservedRdWord_rsps (s : State) : (s.reservedRdWord).rsps = s.rsps ++ [0#32] := rfl
@[simp] theorem State.reservedRdWord_hreqs (s : State) : (s.reservedRdWord).hreqs = s.hreqs := rfl
@[simp] theorem State.reservedRdWord_moves (s : State) : (s.reservedRdWord).moves = s.moves := rfl
@[simp] theorem State.reservedRdWord_freeCount (s : State) : (s.reservedRdWord).freeCount = s.freeCount := rfl

/-! `resetBlock` -/

@[simp] theorem State.resetBlock_k (s : State) : (s.resetBlock).k = State.reset.k := rfl
@[simp] theorem State.resetBlock_keyv (s : State) : (s.resetBlock).keyv = State.reset.keyv := rfl
@[simp] theorem State.resetBlock_fatal (s : State) : (s.resetBlock).fatal = State.reset.fatal := rfl
@[simp] theorem State.resetBlock_hpend (s : State) : (s.resetBlock).hpend = State.reset.hpend := rfl
@[simp] theorem State.resetBlock_pendcmd (s : State) : (s.resetBlock).pendcmd = State.reset.pendcmd := rfl
@[simp] theorem State.resetBlock_acc (s : State) : (s.resetBlock).acc = State.reset.acc := rfl
@[simp] theorem State.resetBlock_ovf (s : State) : (s.resetBlock).ovf = State.reset.ovf := rfl
@[simp] theorem State.resetBlock_badc (s : State) : (s.resetBlock).badc = State.reset.badc := rfl
@[simp] theorem State.resetBlock_work (s : State) : (s.resetBlock).work = State.reset.work := rfl
@[simp] theorem State.resetBlock_res (s : State) : (s.resetBlock).res = State.reset.res := rfl
@[simp] theorem State.resetBlock_valid (s : State) : (s.resetBlock).valid = State.reset.valid := rfl
@[simp] theorem State.resetBlock_err (s : State) : (s.resetBlock).err = State.reset.err := rfl
@[simp] theorem State.resetBlock_cmderr (s : State) : (s.resetBlock).cmderr = State.reset.cmderr := rfl
@[simp] theorem State.resetBlock_cmds (s : State) : (s.resetBlock).cmds = s.cmds := rfl
@[simp] theorem State.resetBlock_rsps (s : State) : (s.resetBlock).rsps = s.rsps := rfl
@[simp] theorem State.resetBlock_hreqs (s : State) : (s.resetBlock).hreqs = State.reset.hreqs := rfl
@[simp] theorem State.resetBlock_moves (s : State) : (s.resetBlock).moves = s.moves := rfl
@[simp] theorem State.resetBlock_freeCount (s : State) : (s.resetBlock).freeCount = s.freeCount := rfl

/-! `appendDigit` -/

@[simp] theorem State.appendDigit_k (d : Nat) (s : State) : (s.appendDigit d).k = s.k := rfl
@[simp] theorem State.appendDigit_keyv (d : Nat) (s : State) : (s.appendDigit d).keyv = s.keyv := rfl
@[simp] theorem State.appendDigit_fatal (d : Nat) (s : State) : (s.appendDigit d).fatal = s.fatal := rfl
@[simp] theorem State.appendDigit_hpend (d : Nat) (s : State) : (s.appendDigit d).hpend = s.hpend := rfl
@[simp] theorem State.appendDigit_pendcmd (d : Nat) (s : State) : (s.appendDigit d).pendcmd = s.pendcmd := rfl
@[simp] theorem State.appendDigit_acc (d : Nat) (s : State) : (s.appendDigit d).acc = BitVec.ofNat 128 (s.acc.toNat * Config.radix + d) := rfl
@[simp] theorem State.appendDigit_ovf (d : Nat) (s : State) : (s.appendDigit d).ovf = (s.ovf || overflows (s.acc.toNat * Config.radix + d)) := rfl
@[simp] theorem State.appendDigit_badc (d : Nat) (s : State) : (s.appendDigit d).badc = s.badc := rfl
@[simp] theorem State.appendDigit_work (d : Nat) (s : State) : (s.appendDigit d).work = s.work := rfl
@[simp] theorem State.appendDigit_res (d : Nat) (s : State) : (s.appendDigit d).res = s.res := rfl
@[simp] theorem State.appendDigit_valid (d : Nat) (s : State) : (s.appendDigit d).valid = s.valid := rfl
@[simp] theorem State.appendDigit_err (d : Nat) (s : State) : (s.appendDigit d).err = s.err := rfl
@[simp] theorem State.appendDigit_cmderr (d : Nat) (s : State) : (s.appendDigit d).cmderr = s.cmderr := rfl
@[simp] theorem State.appendDigit_cmds (d : Nat) (s : State) : (s.appendDigit d).cmds = s.cmds := rfl
@[simp] theorem State.appendDigit_rsps (d : Nat) (s : State) : (s.appendDigit d).rsps = s.rsps := rfl
@[simp] theorem State.appendDigit_hreqs (d : Nat) (s : State) : (s.appendDigit d).hreqs = s.hreqs := rfl
@[simp] theorem State.appendDigit_moves (d : Nat) (s : State) : (s.appendDigit d).moves = s.moves := rfl
@[simp] theorem State.appendDigit_freeCount (d : Nat) (s : State) : (s.appendDigit d).freeCount = s.freeCount := rfl

/-! `decodeSucceed` -/

@[simp] theorem State.decodeSucceed_k (s : State) : (s.decodeSucceed).k = s.k := rfl
@[simp] theorem State.decodeSucceed_keyv (s : State) : (s.decodeSucceed).keyv = s.keyv := rfl
@[simp] theorem State.decodeSucceed_fatal (s : State) : (s.decodeSucceed).fatal = s.fatal := rfl
@[simp] theorem State.decodeSucceed_hpend (s : State) : (s.decodeSucceed).hpend = s.hpend := rfl
@[simp] theorem State.decodeSucceed_pendcmd (s : State) : (s.decodeSucceed).pendcmd = s.pendcmd := rfl
@[simp] theorem State.decodeSucceed_acc (s : State) : (s.decodeSucceed).acc = s.acc := rfl
@[simp] theorem State.decodeSucceed_ovf (s : State) : (s.decodeSucceed).ovf = s.ovf := rfl
@[simp] theorem State.decodeSucceed_badc (s : State) : (s.decodeSucceed).badc = s.badc := rfl
@[simp] theorem State.decodeSucceed_work (s : State) : (s.decodeSucceed).work = freeCipherRegs s.freeCount := rfl
@[simp] theorem State.decodeSucceed_res (s : State) : (s.decodeSucceed).res = unpack (decryptWords (ctWords s.acc) s.k) := rfl
@[simp] theorem State.decodeSucceed_valid (s : State) : (s.decodeSucceed).valid = true := rfl
@[simp] theorem State.decodeSucceed_err (s : State) : (s.decodeSucceed).err = 0#3 := rfl
@[simp] theorem State.decodeSucceed_cmderr (s : State) : (s.decodeSucceed).cmderr = s.cmderr := rfl
@[simp] theorem State.decodeSucceed_cmds (s : State) : (s.decodeSucceed).cmds = s.cmds := rfl
@[simp] theorem State.decodeSucceed_rsps (s : State) : (s.decodeSucceed).rsps = s.rsps := rfl
@[simp] theorem State.decodeSucceed_hreqs (s : State) : (s.decodeSucceed).hreqs = s.hreqs := rfl
@[simp] theorem State.decodeSucceed_moves (s : State) : (s.decodeSucceed).moves = s.moves := rfl
@[simp] theorem State.decodeSucceed_freeCount (s : State) : (s.decodeSucceed).freeCount = s.freeCount + 1 := rfl

/-! `requestHash` -/

@[simp] theorem State.requestHash_k (p : PendCmd) (s : State) : (s.requestHash p).k = s.k := rfl
@[simp] theorem State.requestHash_keyv (p : PendCmd) (s : State) : (s.requestHash p).keyv = s.keyv := rfl
@[simp] theorem State.requestHash_fatal (p : PendCmd) (s : State) : (s.requestHash p).fatal = s.fatal := rfl
@[simp] theorem State.requestHash_hpend (p : PendCmd) (s : State) : (s.requestHash p).hpend = true := rfl
@[simp] theorem State.requestHash_pendcmd (p : PendCmd) (s : State) : (s.requestHash p).pendcmd = p := rfl
@[simp] theorem State.requestHash_acc (p : PendCmd) (s : State) : (s.requestHash p).acc = s.acc := rfl
@[simp] theorem State.requestHash_ovf (p : PendCmd) (s : State) : (s.requestHash p).ovf = s.ovf := rfl
@[simp] theorem State.requestHash_badc (p : PendCmd) (s : State) : (s.requestHash p).badc = s.badc := rfl
@[simp] theorem State.requestHash_work (p : PendCmd) (s : State) : (s.requestHash p).work = s.work := rfl
@[simp] theorem State.requestHash_res (p : PendCmd) (s : State) : (s.requestHash p).res = s.res := rfl
@[simp] theorem State.requestHash_valid (p : PendCmd) (s : State) : (s.requestHash p).valid = s.valid := rfl
@[simp] theorem State.requestHash_err (p : PendCmd) (s : State) : (s.requestHash p).err = s.err := rfl
@[simp] theorem State.requestHash_cmderr (p : PendCmd) (s : State) : (s.requestHash p).cmderr = s.cmderr := rfl
@[simp] theorem State.requestHash_cmds (p : PendCmd) (s : State) : (s.requestHash p).cmds = s.cmds := rfl
@[simp] theorem State.requestHash_rsps (p : PendCmd) (s : State) : (s.requestHash p).rsps = s.rsps := rfl
@[simp] theorem State.requestHash_hreqs (p : PendCmd) (s : State) : (s.requestHash p).hreqs = s.hreqs + 1 := rfl
@[simp] theorem State.requestHash_moves (p : PendCmd) (s : State) : (s.requestHash p).moves = s.moves := rfl
@[simp] theorem State.requestHash_freeCount (p : PendCmd) (s : State) : (s.requestHash p).freeCount = s.freeCount := rfl

/-! `offerWord` -/

@[simp] theorem State.offerWord_k (w : CmdWord) (s : State) : (s.offerWord w).k = s.k := rfl
@[simp] theorem State.offerWord_keyv (w : CmdWord) (s : State) : (s.offerWord w).keyv = s.keyv := rfl
@[simp] theorem State.offerWord_fatal (w : CmdWord) (s : State) : (s.offerWord w).fatal = s.fatal := rfl
@[simp] theorem State.offerWord_hpend (w : CmdWord) (s : State) : (s.offerWord w).hpend = false := rfl
@[simp] theorem State.offerWord_pendcmd (w : CmdWord) (s : State) : (s.offerWord w).pendcmd = s.pendcmd := rfl
@[simp] theorem State.offerWord_acc (w : CmdWord) (s : State) : (s.offerWord w).acc = s.acc := rfl
@[simp] theorem State.offerWord_ovf (w : CmdWord) (s : State) : (s.offerWord w).ovf = s.ovf := rfl
@[simp] theorem State.offerWord_badc (w : CmdWord) (s : State) : (s.offerWord w).badc = s.badc := rfl
@[simp] theorem State.offerWord_work (w : CmdWord) (s : State) : (s.offerWord w).work = s.work := rfl
@[simp] theorem State.offerWord_res (w : CmdWord) (s : State) : (s.offerWord w).res = s.res := rfl
@[simp] theorem State.offerWord_valid (w : CmdWord) (s : State) : (s.offerWord w).valid = s.valid := rfl
@[simp] theorem State.offerWord_err (w : CmdWord) (s : State) : (s.offerWord w).err = s.err := rfl
@[simp] theorem State.offerWord_cmderr (w : CmdWord) (s : State) : (s.offerWord w).cmderr = s.cmderr := rfl
@[simp] theorem State.offerWord_cmds (w : CmdWord) (s : State) : (s.offerWord w).cmds = w :: s.cmds := rfl
@[simp] theorem State.offerWord_rsps (w : CmdWord) (s : State) : (s.offerWord w).rsps = s.rsps := rfl
@[simp] theorem State.offerWord_hreqs (w : CmdWord) (s : State) : (s.offerWord w).hreqs = s.hreqs := rfl
@[simp] theorem State.offerWord_moves (w : CmdWord) (s : State) : (s.offerWord w).moves = .host :: s.moves := rfl
@[simp] theorem State.offerWord_freeCount (w : CmdWord) (s : State) : (s.offerWord w).freeCount = s.freeCount := rfl

/-! `visible` -/

@[simp] theorem State.visible_k (s : State) : (s.visible).k = s.k := rfl
@[simp] theorem State.visible_keyv (s : State) : (s.visible).keyv = s.keyv := rfl
@[simp] theorem State.visible_fatal (s : State) : (s.visible).fatal = s.fatal := rfl
@[simp] theorem State.visible_hpend (s : State) : (s.visible).hpend = s.hpend := rfl
@[simp] theorem State.visible_pendcmd (s : State) : (s.visible).pendcmd = s.pendcmd := rfl
@[simp] theorem State.visible_acc (s : State) : (s.visible).acc = s.acc := rfl
@[simp] theorem State.visible_ovf (s : State) : (s.visible).ovf = s.ovf := rfl
@[simp] theorem State.visible_badc (s : State) : (s.visible).badc = s.badc := rfl
@[simp] theorem State.visible_work (s : State) : (s.visible).work = CipherRegs.zero := rfl
@[simp] theorem State.visible_res (s : State) : (s.visible).res = s.res := rfl
@[simp] theorem State.visible_valid (s : State) : (s.visible).valid = s.valid := rfl
@[simp] theorem State.visible_err (s : State) : (s.visible).err = s.err := rfl
@[simp] theorem State.visible_cmderr (s : State) : (s.visible).cmderr = s.cmderr := rfl
@[simp] theorem State.visible_cmds (s : State) : (s.visible).cmds = s.cmds := rfl
@[simp] theorem State.visible_rsps (s : State) : (s.visible).rsps = s.rsps := rfl
@[simp] theorem State.visible_hreqs (s : State) : (s.visible).hreqs = s.hreqs := rfl
@[simp] theorem State.visible_moves (s : State) : (s.visible).moves = s.moves := rfl
@[simp] theorem State.visible_freeCount (s : State) : (s.visible).freeCount = 0 := rfl

/-! `takeAnswer`, by the answer (41_key_derivation.md R104, R105) -/

@[simp] theorem State.takeAnswer_digest_k (d : Digest) (s : State) : (s.takeAnswer (.digest d)).k = keyWords d := rfl
@[simp] theorem State.takeAnswer_unavailable_k (s : State) : (s.takeAnswer .unavailable).k = s.k := rfl
@[simp] theorem State.takeAnswer_digest_keyv (d : Digest) (s : State) : (s.takeAnswer (.digest d)).keyv = true := rfl
@[simp] theorem State.takeAnswer_unavailable_keyv (s : State) : (s.takeAnswer .unavailable).keyv = s.keyv := rfl
@[simp] theorem State.takeAnswer_digest_fatal (d : Digest) (s : State) : (s.takeAnswer (.digest d)).fatal = s.fatal := rfl
@[simp] theorem State.takeAnswer_unavailable_fatal (s : State) : (s.takeAnswer .unavailable).fatal = true := rfl
@[simp] theorem State.takeAnswer_digest_hpend (d : Digest) (s : State) : (s.takeAnswer (.digest d)).hpend = s.hpend := rfl
@[simp] theorem State.takeAnswer_unavailable_hpend (s : State) : (s.takeAnswer .unavailable).hpend = s.hpend := rfl
@[simp] theorem State.takeAnswer_digest_pendcmd (d : Digest) (s : State) : (s.takeAnswer (.digest d)).pendcmd = s.pendcmd := rfl
@[simp] theorem State.takeAnswer_unavailable_pendcmd (s : State) : (s.takeAnswer .unavailable).pendcmd = s.pendcmd := rfl
@[simp] theorem State.takeAnswer_digest_acc (d : Digest) (s : State) : (s.takeAnswer (.digest d)).acc = s.acc := rfl
@[simp] theorem State.takeAnswer_unavailable_acc (s : State) : (s.takeAnswer .unavailable).acc = s.acc := rfl
@[simp] theorem State.takeAnswer_digest_ovf (d : Digest) (s : State) : (s.takeAnswer (.digest d)).ovf = s.ovf := rfl
@[simp] theorem State.takeAnswer_unavailable_ovf (s : State) : (s.takeAnswer .unavailable).ovf = s.ovf := rfl
@[simp] theorem State.takeAnswer_digest_badc (d : Digest) (s : State) : (s.takeAnswer (.digest d)).badc = s.badc := rfl
@[simp] theorem State.takeAnswer_unavailable_badc (s : State) : (s.takeAnswer .unavailable).badc = s.badc := rfl
@[simp] theorem State.takeAnswer_digest_work (d : Digest) (s : State) : (s.takeAnswer (.digest d)).work = s.work := rfl
@[simp] theorem State.takeAnswer_unavailable_work (s : State) : (s.takeAnswer .unavailable).work = s.work := rfl
@[simp] theorem State.takeAnswer_digest_res (d : Digest) (s : State) : (s.takeAnswer (.digest d)).res = s.res := rfl
@[simp] theorem State.takeAnswer_unavailable_res (s : State) : (s.takeAnswer .unavailable).res = s.res := rfl
@[simp] theorem State.takeAnswer_digest_valid (d : Digest) (s : State) : (s.takeAnswer (.digest d)).valid = s.valid := rfl
@[simp] theorem State.takeAnswer_unavailable_valid (s : State) : (s.takeAnswer .unavailable).valid = s.valid := rfl
@[simp] theorem State.takeAnswer_digest_err (d : Digest) (s : State) : (s.takeAnswer (.digest d)).err = s.err := rfl
@[simp] theorem State.takeAnswer_unavailable_err (s : State) : (s.takeAnswer .unavailable).err = s.err := rfl
@[simp] theorem State.takeAnswer_digest_cmderr (d : Digest) (s : State) : (s.takeAnswer (.digest d)).cmderr = s.cmderr := rfl
@[simp] theorem State.takeAnswer_unavailable_cmderr (s : State) : (s.takeAnswer .unavailable).cmderr = s.cmderr := rfl
@[simp] theorem State.takeAnswer_digest_cmds (d : Digest) (s : State) : (s.takeAnswer (.digest d)).cmds = s.cmds := rfl
@[simp] theorem State.takeAnswer_unavailable_cmds (s : State) : (s.takeAnswer .unavailable).cmds = s.cmds := rfl
@[simp] theorem State.takeAnswer_digest_rsps (d : Digest) (s : State) : (s.takeAnswer (.digest d)).rsps = s.rsps := rfl
@[simp] theorem State.takeAnswer_unavailable_rsps (s : State) : (s.takeAnswer .unavailable).rsps = s.rsps := rfl
@[simp] theorem State.takeAnswer_digest_hreqs (d : Digest) (s : State) : (s.takeAnswer (.digest d)).hreqs = s.hreqs := rfl
@[simp] theorem State.takeAnswer_unavailable_hreqs (s : State) : (s.takeAnswer .unavailable).hreqs = s.hreqs := rfl
@[simp] theorem State.takeAnswer_digest_moves (d : Digest) (s : State) : (s.takeAnswer (.digest d)).moves = s.moves := rfl
@[simp] theorem State.takeAnswer_unavailable_moves (s : State) : (s.takeAnswer .unavailable).moves = s.moves := rfl
@[simp] theorem State.takeAnswer_digest_freeCount (d : Digest) (s : State) : (s.takeAnswer (.digest d)).freeCount = s.freeCount := rfl
@[simp] theorem State.takeAnswer_unavailable_freeCount (s : State) : (s.takeAnswer .unavailable).freeCount = s.freeCount := rfl

/-! the reset state (10_state.md R39) -/

@[simp] theorem State.reset_k : State.reset.k = Words4.zero := rfl
@[simp] theorem State.reset_keyv : State.reset.keyv = false := rfl
@[simp] theorem State.reset_fatal : State.reset.fatal = false := rfl
@[simp] theorem State.reset_hpend : State.reset.hpend = false := rfl
@[simp] theorem State.reset_pendcmd : State.reset.pendcmd = .kdf := rfl
@[simp] theorem State.reset_acc : State.reset.acc = 0#128 := rfl
@[simp] theorem State.reset_ovf : State.reset.ovf = false := rfl
@[simp] theorem State.reset_badc : State.reset.badc = false := rfl
@[simp] theorem State.reset_work : State.reset.work = CipherRegs.zero := rfl
@[simp] theorem State.reset_res : State.reset.res = Results.empty := rfl
@[simp] theorem State.reset_valid : State.reset.valid = false := rfl
@[simp] theorem State.reset_err : State.reset.err = 0#3 := rfl
@[simp] theorem State.reset_cmderr : State.reset.cmderr = false := rfl
@[simp] theorem State.reset_cmds : State.reset.cmds = [] := rfl
@[simp] theorem State.reset_rsps : State.reset.rsps = [] := rfl
@[simp] theorem State.reset_hreqs : State.reset.hreqs = 0 := rfl
@[simp] theorem State.reset_moves : State.reset.moves = [] := rfl
@[simp] theorem State.reset_freeCount : State.reset.freeCount = 0 := rfl

end Sys2Proof.Machine
end

