-- ==== Sys2Proof/Laws/Ops.lean ====
section
/-! SUPPORT. Everything each shared operation can do, said once: pushing a character, the stages of DECODE, the hash request and its
answer. Provers cite these instead of unfolding the operations. -/

namespace Sys2Proof.Machine

/-- A digit is below 62. -/
theorem digit_lt {c : Byte} {d : Nat} (h : digit c = some d) : d < Config.radix := by
  unfold digit at h
  split at h
  · cases h; simp only [Config.radix]; omega
  · split at h
    · cases h; simp only [Config.radix]; omega
    · split at h
      · cases h; simp only [Config.radix]; omega
      · cases h

/-- A code outside the alphabet only sets `BADC`. -/
theorem State.pushChar_of_none {c : Byte} (h : digit c = none) (s : State) : s.pushChar c = { s with badc := true } := by
  simp only [State.pushChar, h]

/-- A valid code appends its digit. -/
theorem State.pushChar_of_digit {c : Byte} {d : Nat} (h : digit c = some d) (s : State) : s.pushChar c = s.appendDigit d := by
  simp only [State.pushChar, h]

/-- PUSH writes `ACC`, `OVF`, `BADC` and nothing else. -/
theorem State.pushChar_frame (s : State) (c : Byte) :
    s.pushChar c = { s with acc := (s.pushChar c).acc, ovf := (s.pushChar c).ovf, badc := (s.pushChar c).badc } := by
  unfold State.pushChar
  split <;> rfl

/-- The four ends of DECODE's stages 2 to 4, with the tests that lead to each, in the order of 60_exceptions.md R226. -/
theorem State.decodeStages_cases (s : State) :
    (s.fatal = true ∧ s.decodeStages = s.raise .environmentUnavailable) ∨
    (s.fatal = false ∧ s.badc = true ∧ s.decodeStages = s.raise .invalidTokenCharacter) ∨
    (s.fatal = false ∧ s.badc = false ∧ s.ovf = true ∧ s.decodeStages = s.raise .tokenTooLong) ∨
    (s.fatal = false ∧ s.badc = false ∧ s.ovf = false ∧ s.decodeStages = s.decodeSucceed) := by
  unfold State.decodeStages
  cases hf : s.fatal <;> cases hb : s.badc <;> cases ho : s.ovf <;> simp

/-- Stages 2 to 4 write the results, `VALID`, `ERR` and the working registers with their counter, and nothing else. -/
theorem State.decodeStages_frame (s : State) :
    s.decodeStages = { s with res := s.decodeStages.res, valid := s.decodeStages.valid, err := s.decodeStages.err,
                              work := s.decodeStages.work, freeCount := s.decodeStages.freeCount } := by
  rcases s.decodeStages_cases with ⟨-, h⟩ | ⟨-, -, h⟩ | ⟨-, -, -, h⟩ | ⟨-, -, -, h⟩ <;> rw [h] <;> rfl

/-- `await hash` with the answer as the very next move: the command goes on at once. -/
theorem State.awaitHash_answered {s : State} {a : HashAnswer} {rest : List Move} (h : s.moves = .hash a :: rest) :
    s.awaitHash = State.answerHash a { s with moves := rest } := by
  simp only [State.awaitHash, h]

/-- `await hash` otherwise: the command stays suspended. -/
theorem State.awaitHash_waiting {s : State} (h : ∀ a rest, s.moves ≠ .hash a :: rest) : s.awaitHash = s := by
  unfold State.awaitHash
  split
  · rfl
  · rfl
  · rfl
  · rfl
  · next heq => exact absurd heq (h _ _)

/-- A derivation ends at once or leaves the command suspended. -/
theorem State.keyDerive_cases (s : State) (p : PendCmd) :
    (∃ a rest, s.moves = .hash a :: rest ∧ s.keyDerive p = State.answerHash a { s.requestHash p with moves := rest }) ∨
    ((∀ a rest, s.moves ≠ .hash a :: rest) ∧ s.keyDerive p = s.requestHash p) := by
  by_cases h : ∃ a rest, s.moves = .hash a :: rest
  · obtain ⟨a, rest, h⟩ := h
    exact .inl ⟨a, rest, h, State.awaitHash_answered (s := s.requestHash p) h⟩
  · have h' : ∀ a rest, s.moves ≠ .hash a :: rest := fun a rest e => h ⟨a, rest, e⟩
    exact .inr ⟨h', State.awaitHash_waiting (s := s.requestHash p) h'⟩

/-- A suspended KDF is complete with the answer. -/
theorem State.answerHash_kdf {s : State} (h : s.pendcmd = .kdf) (a : HashAnswer) :
    s.answerHash a = { s.takeAnswer a with hpend := false, pendcmd := .kdf } := by
  cases a <;> simp [State.answerHash, State.resume, h]

/-- A suspended DECODE runs its stages 2 to 4 on the answer. -/
theorem State.answerHash_decode {s : State} (h : s.pendcmd = .decode) (a : HashAnswer) :
    s.answerHash a = State.decodeStages { s.takeAnswer a with hpend := false, pendcmd := .kdf } := by
  cases a <;> simp [State.answerHash, State.resume, h]

/-! `decodeStages`, the elements it leaves -/

@[simp] theorem State.decodeStages_k (s : State) : s.decodeStages.k = s.k := by rw [s.decodeStages_frame]
@[simp] theorem State.decodeStages_keyv (s : State) : s.decodeStages.keyv = s.keyv := by rw [s.decodeStages_frame]
@[simp] theorem State.decodeStages_fatal (s : State) : s.decodeStages.fatal = s.fatal := by rw [s.decodeStages_frame]
@[simp] theorem State.decodeStages_hpend (s : State) : s.decodeStages.hpend = s.hpend := by rw [s.decodeStages_frame]
@[simp] theorem State.decodeStages_pendcmd (s : State) : s.decodeStages.pendcmd = s.pendcmd := by rw [s.decodeStages_frame]
@[simp] theorem State.decodeStages_acc (s : State) : s.decodeStages.acc = s.acc := by rw [s.decodeStages_frame]
@[simp] theorem State.decodeStages_ovf (s : State) : s.decodeStages.ovf = s.ovf := by rw [s.decodeStages_frame]
@[simp] theorem State.decodeStages_badc (s : State) : s.decodeStages.badc = s.badc := by rw [s.decodeStages_frame]
@[simp] theorem State.decodeStages_cmderr (s : State) : s.decodeStages.cmderr = s.cmderr := by rw [s.decodeStages_frame]
@[simp] theorem State.decodeStages_cmds (s : State) : s.decodeStages.cmds = s.cmds := by rw [s.decodeStages_frame]
@[simp] theorem State.decodeStages_rsps (s : State) : s.decodeStages.rsps = s.rsps := by rw [s.decodeStages_frame]
@[simp] theorem State.decodeStages_hreqs (s : State) : s.decodeStages.hreqs = s.hreqs := by rw [s.decodeStages_frame]
@[simp] theorem State.decodeStages_moves (s : State) : s.decodeStages.moves = s.moves := by rw [s.decodeStages_frame]

/-! `pushChar`, the elements it leaves -/

@[simp] theorem State.pushChar_k (c : Byte) (s : State) : (s.pushChar c).k = s.k := by rw [s.pushChar_frame]
@[simp] theorem State.pushChar_keyv (c : Byte) (s : State) : (s.pushChar c).keyv = s.keyv := by rw [s.pushChar_frame]
@[simp] theorem State.pushChar_fatal (c : Byte) (s : State) : (s.pushChar c).fatal = s.fatal := by rw [s.pushChar_frame]
@[simp] theorem State.pushChar_hpend (c : Byte) (s : State) : (s.pushChar c).hpend = s.hpend := by rw [s.pushChar_frame]
@[simp] theorem State.pushChar_pendcmd (c : Byte) (s : State) : (s.pushChar c).pendcmd = s.pendcmd := by rw [s.pushChar_frame]
@[simp] theorem State.pushChar_work (c : Byte) (s : State) : (s.pushChar c).work = s.work := by rw [s.pushChar_frame]
@[simp] theorem State.pushChar_res (c : Byte) (s : State) : (s.pushChar c).res = s.res := by rw [s.pushChar_frame]
@[simp] theorem State.pushChar_valid (c : Byte) (s : State) : (s.pushChar c).valid = s.valid := by rw [s.pushChar_frame]
@[simp] theorem State.pushChar_err (c : Byte) (s : State) : (s.pushChar c).err = s.err := by rw [s.pushChar_frame]
@[simp] theorem State.pushChar_cmderr (c : Byte) (s : State) : (s.pushChar c).cmderr = s.cmderr := by rw [s.pushChar_frame]
@[simp] theorem State.pushChar_cmds (c : Byte) (s : State) : (s.pushChar c).cmds = s.cmds := by rw [s.pushChar_frame]
@[simp] theorem State.pushChar_rsps (c : Byte) (s : State) : (s.pushChar c).rsps = s.rsps := by rw [s.pushChar_frame]
@[simp] theorem State.pushChar_hreqs (c : Byte) (s : State) : (s.pushChar c).hreqs = s.hreqs := by rw [s.pushChar_frame]
@[simp] theorem State.pushChar_moves (c : Byte) (s : State) : (s.pushChar c).moves = s.moves := by rw [s.pushChar_frame]
@[simp] theorem State.pushChar_freeCount (c : Byte) (s : State) : (s.pushChar c).freeCount = s.freeCount := by rw [s.pushChar_frame]

/-! `answerHash`: the suspension is over, and the elements it leaves -/

@[simp] theorem State.answerHash_acc (a : HashAnswer) (s : State) : (s.answerHash a).acc = s.acc := by
  unfold State.answerHash State.resume
  cases a <;> split <;> simp

@[simp] theorem State.answerHash_ovf (a : HashAnswer) (s : State) : (s.answerHash a).ovf = s.ovf := by
  unfold State.answerHash State.resume
  cases a <;> split <;> simp

@[simp] theorem State.answerHash_badc (a : HashAnswer) (s : State) : (s.answerHash a).badc = s.badc := by
  unfold State.answerHash State.resume
  cases a <;> split <;> simp

@[simp] theorem State.answerHash_cmderr (a : HashAnswer) (s : State) : (s.answerHash a).cmderr = s.cmderr := by
  unfold State.answerHash State.resume
  cases a <;> split <;> simp

@[simp] theorem State.answerHash_cmds (a : HashAnswer) (s : State) : (s.answerHash a).cmds = s.cmds := by
  unfold State.answerHash State.resume
  cases a <;> split <;> simp

@[simp] theorem State.answerHash_rsps (a : HashAnswer) (s : State) : (s.answerHash a).rsps = s.rsps := by
  unfold State.answerHash State.resume
  cases a <;> split <;> simp

@[simp] theorem State.answerHash_hreqs (a : HashAnswer) (s : State) : (s.answerHash a).hreqs = s.hreqs := by
  unfold State.answerHash State.resume
  cases a <;> split <;> simp

@[simp] theorem State.answerHash_moves (a : HashAnswer) (s : State) : (s.answerHash a).moves = s.moves := by
  unfold State.answerHash State.resume
  cases a <;> split <;> simp

@[simp] theorem State.answerHash_hpend (a : HashAnswer) (s : State) : (s.answerHash a).hpend = false := by
  unfold State.answerHash State.resume
  cases a <;> split <;> simp

@[simp] theorem State.answerHash_pendcmd (a : HashAnswer) (s : State) : (s.answerHash a).pendcmd = .kdf := by
  unfold State.answerHash State.resume
  cases a <;> split <;> simp

@[simp] theorem State.answerHash_digest_k (d : Digest) (s : State) : (s.answerHash (.digest d)).k = keyWords d := by
  unfold State.answerHash State.resume
  split <;> simp

@[simp] theorem State.answerHash_digest_keyv (d : Digest) (s : State) : (s.answerHash (.digest d)).keyv = true := by
  unfold State.answerHash State.resume
  split <;> simp

@[simp] theorem State.answerHash_digest_fatal (d : Digest) (s : State) : (s.answerHash (.digest d)).fatal = s.fatal := by
  unfold State.answerHash State.resume
  split <;> simp

@[simp] theorem State.answerHash_unavailable_k (s : State) : (s.answerHash .unavailable).k = s.k := by
  unfold State.answerHash State.resume
  split <;> simp

@[simp] theorem State.answerHash_unavailable_keyv (s : State) : (s.answerHash .unavailable).keyv = s.keyv := by
  unfold State.answerHash State.resume
  split <;> simp

@[simp] theorem State.answerHash_unavailable_fatal (s : State) : (s.answerHash .unavailable).fatal = true := by
  unfold State.answerHash State.resume
  split <;> simp

/-! `keyDerive`, the elements it leaves -/

@[simp] theorem State.keyDerive_acc (p : PendCmd) (s : State) : (s.keyDerive p).acc = s.acc := by
  rcases s.keyDerive_cases p with ⟨a, rest, -, e⟩ | ⟨-, e⟩ <;> rw [e] <;> simp

@[simp] theorem State.keyDerive_ovf (p : PendCmd) (s : State) : (s.keyDerive p).ovf = s.ovf := by
  rcases s.keyDerive_cases p with ⟨a, rest, -, e⟩ | ⟨-, e⟩ <;> rw [e] <;> simp

@[simp] theorem State.keyDerive_badc (p : PendCmd) (s : State) : (s.keyDerive p).badc = s.badc := by
  rcases s.keyDerive_cases p with ⟨a, rest, -, e⟩ | ⟨-, e⟩ <;> rw [e] <;> simp

@[simp] theorem State.keyDerive_cmderr (p : PendCmd) (s : State) : (s.keyDerive p).cmderr = s.cmderr := by
  rcases s.keyDerive_cases p with ⟨a, rest, -, e⟩ | ⟨-, e⟩ <;> rw [e] <;> simp

@[simp] theorem State.keyDerive_cmds (p : PendCmd) (s : State) : (s.keyDerive p).cmds = s.cmds := by
  rcases s.keyDerive_cases p with ⟨a, rest, -, e⟩ | ⟨-, e⟩ <;> rw [e] <;> simp

@[simp] theorem State.keyDerive_rsps (p : PendCmd) (s : State) : (s.keyDerive p).rsps = s.rsps := by
  rcases s.keyDerive_cases p with ⟨a, rest, -, e⟩ | ⟨-, e⟩ <;> rw [e] <;> simp

end Sys2Proof.Machine
end

