-- ==== Sys2Proof/Laws/Exec.lean ====
section
/-! SUPPORT. Every command answers a next state; what `exec` and `step` can do, said once. -/

namespace Sys2Proof.Machine

/-- The state a command leads to. -/
def execTo : Instr → State → State
  | .nop, s => s
  | .start, s => s.clearToken
  | .push c, s => s.pushChar c
  | .kdf, s => if s.keyv || s.fatal then s else s.keyDerive .kdf
  | .decode, s => if s.keyv || s.fatal then s.decodeStages else s.keyDerive .decode
  | .rd sel, s =>
    match selectOf sel with
    | some r => s.respond (selectWord s r)
    | none => s.reservedRdWord

/-- `exec` always answers a next state, `execTo`. -/
theorem exec_eq_next (i : Instr) (s : State) : exec i s = .next (execTo i s) := by
  cases i with
  | nop => rfl
  | start => rfl
  | push c => rfl
  | kdf => simp only [exec, execKdf, execTo]; split <;> rfl
  | decode => simp only [exec, execDecode, execTo]; split <;> rfl
  | rd sel => simp only [exec, execRd, execTo]; cases selectOf sel <;> rfl

/-- A select below 16 names a word of 20_memory.md R61. -/
theorem selectOf_isSome {sel : Byte} (h : sel.toNat < 16) : ∃ r, selectOf sel = some r := by
  have table : ∀ b : Byte, b.toNat < 16 → (selectOf b).isSome = true := by decide +kernel
  exact Option.isSome_iff_exists.1 (table sel h)

/-- Issuing a word: what its decoding says. -/
theorem issueWord_eq (w : CmdWord) (s : State) :
    issueWord w s = match decode w with
      | .command i => .next (execTo i s)
      | .reservedRd => .next s.reservedRdWord
      | .reserved => .next s.reservedWord := by
  unfold issueWord
  cases decode w with
  | command i => exact exec_eq_next i s
  | reservedRd => rfl
  | reserved => rfl

/-- The step is the next agent's move (log entry 5). -/
theorem step_of_no_move {s : State} (h : s.moves = []) : step s = hostMove s := by
  simp only [step, nextMove, h]

/-- The step is the next agent's move. -/
theorem step_of_move {s : State} {m : Move} {rest : List Move} (h : s.moves = m :: rest) :
    step s = makeMove m { s with moves := rest } := by
  simp only [step, nextMove, h]

/-- What the host's move can do. -/
theorem hostMove_cases {s t : State} (h : hostMove s = .next t) :
    (s.hpend = true ∧ t = s) ∨ (s.hpend = false ∧ s.cmds = [] ∧ t = s) ∨
    (s.hpend = false ∧ ∃ w rest, s.cmds = w :: rest ∧
      ((∃ i, decode w = .command i ∧ t = execTo i { s with cmds := rest }) ∨
       (decode w = .reservedRd ∧ t = State.reservedRdWord { s with cmds := rest }) ∨
       (decode w = .reserved ∧ t = State.reservedWord { s with cmds := rest }))) := by
  unfold hostMove State.cmdReady at h
  cases hp : s.hpend with
  | true =>
    simp only [hp, Bool.not_true, Bool.false_eq_true, if_false, Host.Outcome.next.injEq] at h
    exact .inl ⟨rfl, h.symm⟩
  | false =>
    simp only [hp, Bool.not_false, if_true] at h
    cases hc : s.cmds with
    | nil =>
      simp only [hc, Host.Outcome.next.injEq] at h
      exact .inr (.inl ⟨rfl, rfl, h.symm⟩)
    | cons w rest =>
      simp only [hc, issueWord_eq] at h
      refine .inr (.inr ⟨rfl, w, rest, rfl, ?_⟩)
      cases hd : decode w with
      | command i =>
        simp only [hd, Host.Outcome.next.injEq] at h
        exact .inl ⟨i, rfl, h.symm⟩
      | reservedRd =>
        simp only [hd, Host.Outcome.next.injEq] at h
        exact .inr (.inl ⟨rfl, h.symm⟩)
      | reserved =>
        simp only [hd, Host.Outcome.next.injEq] at h
        exact .inr (.inr ⟨rfl, h.symm⟩)

/-- What a step can do, `rest` being what remains of the listed moves. -/
inductive StepKind (s : State) (rest : List Move) : State → Prop
  /-- Only a move is used up: a suspended or idle block, or an answer nobody waits for. -/
  | quiet (hh : s.hpend = true → ∀ a ms, s.moves ≠ .hash a :: ms) (hr : ∀ ms, s.moves ≠ .rst :: ms) :
      StepKind s rest { s with moves := rest }
  /-- The host's next word is a command. -/
  | command (hp : s.hpend = false) (hn : HostMovesNext s rest) (w : CmdWord) (cmds : List CmdWord) (i : Instr)
      (hc : s.cmds = w :: cmds) (hd : decode w = .command i) : StepKind s rest (execTo i { s with cmds := cmds, moves := rest })
  /-- The host's next word is a reserved RD word. -/
  | reservedRd (hp : s.hpend = false) (hn : HostMovesNext s rest) (w : CmdWord) (cmds : List CmdWord)
      (hc : s.cmds = w :: cmds) (hd : decode w = .reservedRd) :
      StepKind s rest (State.reservedRdWord { s with cmds := cmds, moves := rest })
  /-- The host's next word is another reserved word. -/
  | reserved (hp : s.hpend = false) (hn : HostMovesNext s rest) (w : CmdWord) (cmds : List CmdWord)
      (hc : s.cmds = w :: cmds) (hd : decode w = .reserved) :
      StepKind s rest (State.reservedWord { s with cmds := cmds, moves := rest })
  /-- The answer of a suspended command. -/
  | answer (a : HashAnswer) (hm : s.moves = .hash a :: rest) (hp : s.hpend = true) :
      StepKind s rest (State.answerHash a { s with moves := rest })
  /-- A reset. -/
  | reset (hm : s.moves = .rst :: rest) : StepKind s rest (State.resetBlock { s with moves := rest })

/-- A move of the host is neither an answer nor a reset. -/
theorem HostMovesNext.no_other {s : State} {ms : List Move} (h : HostMovesNext s ms) :
    (∀ a ms', s.moves ≠ .hash a :: ms') ∧ ∀ ms', s.moves ≠ .rst :: ms' := by
  rcases h with ⟨h, -⟩ | h <;> rw [h] <;> exact ⟨fun _ _ e => (by cases e), fun _ e => (by cases e)⟩

/-- The kinds of a host move. -/
theorem hostMove_kind {s t : State} {rest : List Move} (hn : HostMovesNext s rest)
    (h : hostMove { s with moves := rest } = .next t) : StepKind s rest t := by
  have quiet : StepKind s rest { s with moves := rest } := .quiet (fun _ => hn.no_other.1) hn.no_other.2
  rcases hostMove_cases h with ⟨-, rfl⟩ | ⟨-, -, rfl⟩ | ⟨hp, w, cmds, hc, ⟨i, hd, rfl⟩ | ⟨hd, rfl⟩ | ⟨hd, rfl⟩⟩
  · exact quiet
  · exact quiet
  · exact .command (s := s) hp hn w cmds i hc hd
  · exact .reservedRd (s := s) hp hn w cmds hc hd
  · exact .reserved (s := s) hp hn w cmds hc hd

/-- Every step is of one of the kinds, and uses up the first move. -/
theorem step_kind_tail {s t : State} (h : step s = .next t) : StepKind s s.moves.tail t := by
  cases hm : s.moves with
  | nil =>
    rw [step_of_no_move hm] at h
    refine hostMove_kind (.inl ⟨hm, rfl⟩) ?_
    rw [List.tail_nil, ← hm]
    exact h
  | cons m rest =>
    rw [step_of_move hm] at h
    rw [List.tail_cons]
    cases m with
    | host => exact hostMove_kind (.inr hm) h
    | hash a =>
      simp only [makeMove, hashMove] at h
      split at h
      · next hp => cases h; exact .answer a hm hp
      · next hp => cases h; exact .quiet (fun e => absurd e hp) (by rw [hm]; intro _ e; cases e)
    | lateHash a =>
      cases h
      exact .quiet (fun _ => by rw [hm]; intro _ _ e; cases e) (by rw [hm]; intro _ e; cases e)
    | rst => cases h; exact .reset hm

/-- Every step is of one of the kinds. -/
theorem step_kind {s t : State} (h : step s = .next t) : ∃ rest, StepKind s rest t := ⟨_, step_kind_tail h⟩

/-- A derivation that does not end at once has issued a request and used up no move. -/
theorem State.keyDerive_pending {s : State} {p : PendCmd} (h : (s.keyDerive p).hpend = true) :
    (s.keyDerive p).hreqs = s.hreqs + 1 ∧ (s.keyDerive p).moves = s.moves := by
  rcases s.keyDerive_cases p with ⟨a, rest, -, e⟩ | ⟨-, e⟩
  · rw [e] at h
    simp at h
  · rw [e]
    exact ⟨rfl, rfl⟩

/-- A command of a ready block that ends suspended has issued a request and used up no move. -/
theorem execTo_pending {i : Instr} {s : State} (hp : s.hpend = false) (h : (execTo i s).hpend = true) :
    (execTo i s).hreqs = s.hreqs + 1 ∧ (execTo i s).moves = s.moves := by
  cases i with
  | nop => simp [execTo, hp] at h
  | start => simp [execTo, hp] at h
  | push c => simp [execTo, hp] at h
  | kdf =>
    simp only [execTo] at h ⊢
    split at h
    · simp [hp] at h
    · next hk => rw [if_neg hk]; exact State.keyDerive_pending h
  | decode =>
    simp only [execTo] at h ⊢
    split at h
    · simp [hp] at h
    · next hk => rw [if_neg hk]; exact State.keyDerive_pending h
  | rd sel =>
    simp only [execTo] at h
    cases hs : selectOf sel <;> simp [hs, hp] at h

/-- A ready block runs a command before others. -/
theorem execAll_cons {s : State} (h : s.hpend = false) (i : Instr) (is : List Instr) :
    execAll (i :: is) s = execAll is (execTo i s) := by
  simp only [execAll, State.cmdReady, h, exec_eq_next, Bool.not_false, if_true]

/-- A suspended block takes none. -/
theorem execAll_suspended {s : State} (h : s.hpend = true) (is : List Instr) :
    execAll is s = .next { s with cmds := is.map encode ++ s.cmds } := by
  cases is with
  | nil => rfl
  | cons i is => simp [execAll, State.cmdReady, h]

/-- Running no command. -/
@[simp] theorem execAll_nil (s : State) : execAll [] s = .next s := rfl

end Sys2Proof.Machine
end

