-- ==== Sys2Proof/Laws/HostSide.lean ====
section
/-! SUPPORT. The host's outcome by the two bit groups of the STATUS word it tests, and its numbers
(46_host_lookup_and_profile.md R204, R207). -/

namespace Sys2Proof.Machine

/-- `VALID = 1`: the profile. -/
theorem hostOutcome_valid (tables : LookupTables) {w : FieldWords} (h : w.status.getLsbD 1 = true) :
    hostOutcome tables w = some (.ok (profileOf tables w)) := by
  simp only [hostOutcome, h, if_true]

/-- `VALID = 0`: the error whose code stands in `ERR`, of the three the hardware reports. -/
theorem hostOutcome_error (tables : LookupTables) {w : FieldWords} {e : DecodeError} (h : w.status.getLsbD 1 = false)
    (he : w.status.extractLsb' 2 3 = e.code) (hn : e ≠ .noTokenPresent) : hostOutcome tables w = some (.error e) := by
  simp only [hostOutcome, h, he]
  cases e <;> first | rfl | exact absurd rfl hn

/-- A zero-extended value keeps its number. -/
theorem zeroExtend32_toNat {n : Nat} (x : BitVec n) (h : n ≤ 32) : (x.zeroExtend 32).toNat = x.toNat := by
  simp only [BitVec.zeroExtend, BitVec.toNat_setWidth]
  exact Nat.mod_eq_of_lt (lt_of_lt_of_le x.isLt (Nat.pow_le_pow_right (by omega) h))

/-- The phone number from its two response words. -/
theorem phoneNumber_words (p : BitVec 40) :
    phoneNumber ((p.extractLsb' 32 8).zeroExtend 32) (p.extractLsb' 0 32) = p.toNat := by
  have := p.isLt
  simp only [phoneNumber, BitVec.zeroExtend, BitVec.toNat_setWidth, BitVec.extractLsb'_toNat, Nat.shiftRight_eq_div_pow]
  omega

end Sys2Proof.Machine
end

