-- ==== Sys2Proof/Laws/PerInstr.lean ====
section
/-! SUPPORT. Statements made per command. `EncodingFields`: the two fields of a command's word are its opcode and its argument
(30_encoding.md R80, R82). -/

namespace Sys2Proof.Laws.EncodingFields

/-- The fields of the encoded command (R80). -/
def Statement (i : Instr) : Prop := opField (encode i) = i.opcode ∧ argField (encode i) = i.argument

/-- The fields of a word made of two bytes. -/
theorem fields_of_append (op arg : Byte) : opField (op ++ arg) = op ∧ argField (op ++ arg) = arg :=
  ⟨BitVec.extractLsb'_append_eq_left, BitVec.extractLsb'_append_eq_right⟩

theorem nop : Statement .nop := fields_of_append _ _
theorem start : Statement .start := fields_of_append _ _
theorem push (c : Byte) : Statement (.push c) := fields_of_append _ _
theorem kdf : Statement .kdf := fields_of_append _ _
theorem decode : Statement .decode := fields_of_append _ _
theorem rd (sel : Byte) : Statement (.rd sel) := fields_of_append _ _

end Sys2Proof.Laws.EncodingFields
end

