-- ==== Sys2Proof/Laws/Run.lean ====
section
/-! SUPPORT. Running the machine behind the host's interface, step by step. -/

namespace Sys2Proof.Machine

/-- No step. -/
theorem run_zero (s : State) : Host.Core.run Sys2Proof.core 0 s = .next s := rfl

/-- One step of any machine, then the rest. -/
theorem coreRun_succ (M : Host.Core) {s t : M.State} (n : Nat) (h : M.step s = .next t) : M.run (n + 1) s = M.run n t := by
  simp [Host.Core.run, h]

/-- One step, then the rest. -/
theorem run_succ {s t : State} (n : Nat) (h : step s = .next t) :
    Host.Core.run Sys2Proof.core (n + 1) s = Host.Core.run Sys2Proof.core n t :=
  coreRun_succ Sys2Proof.core n h

end Sys2Proof.Machine
end

