-- ==== Sys2Proof/Laws/ProgramRun.lean ====
section
/-! SUPPORT. Runs of a program (70_reset_and_hazards.md R260): one step of a run, its end, its outcome, and the run of a list of
commands when only the host moves; the responses of a list of reads. Of the launch premises (R261): a reset leads to `AfterReset`. -/

namespace Sys2Proof.Machine

/-- An ended run has its outcome. -/
theorem runOutcome_ended {s : State} (h : s.runEnded = true) (n : Nat) : runOutcome n s = some s.outcome := by
  cases n <;> simp [runOutcome, h]

/-- A run that has not ended goes on with a step. -/
theorem runOutcome_step {s t : State} (he : s.runEnded = false) (hr : s.resetNext = false) (hs : step s = .next t) (n : Nat) :
    runOutcome (n + 1) s = runOutcome n t := by
  simp [runOutcome, he, hr, hs]

/-- More steps do not change an outcome. -/
theorem runOutcome_mono {n : Nat} {s : State} {o : RunOutcome} (h : runOutcome n s = some o) (k : Nat) :
    runOutcome (n + k) s = some o := by
  induction n generalizing s with
  | zero =>
    cases he : s.runEnded with
    | true => rw [runOutcome_ended he] at h ⊢; exact h
    | false => simp [runOutcome, he] at h
  | succ n ih =>
    cases he : s.runEnded with
    | true => rw [runOutcome_ended he] at h ⊢; exact h
    | false =>
      rw [Nat.succ_add]
      simp only [runOutcome, he, Bool.false_eq_true, if_false] at h ⊢
      split at h
      · cases h
      · next hr =>
        simp only [hr, Bool.false_eq_true, if_false]
        cases hs : step s with
        | next t => simp only [hs] at h ⊢; exact ih h
        | fault f => simp [hs] at h
        | refused r => simp [hs] at h

/-- A program has one outcome from a state. -/
theorem HasOutcome.unique {p : List CmdWord} {s : State} {o o' : RunOutcome} (h : HasOutcome p s o) (h' : HasOutcome p s o') :
    o = o' := by
  obtain ⟨n, hn⟩ := h
  obtain ⟨m, hm⟩ := h'
  have h1 := runOutcome_mono hn m
  have h2 := runOutcome_mono hm n
  rw [Nat.add_comm m n, h1] at h2
  exact Option.some.inj h2

/-- The state a reset leads to meets `AfterReset`. -/
theorem State.resetBlock_afterReset (s : State) : AfterReset s.resetBlock := rfl

/-- Answers of some kind are answers: `HashAvailable` gives `HashAnswers`. -/
theorem RequestsAnswered.answers {p : HashAnswer → Prop} {s : State} (h : RequestsAnswered p s) : HashAnswers s where
  standing := fun hp => (h.standing hp).imp fun _ ha => ⟨ha.1, trivial⟩
  issued := fun n t hr hi => (h.issued n t hr hi).imp fun _ ha => ⟨ha.1, trivial⟩

/-- While no reset comes, a step that leaves a command suspended keeps the answer it waits for: either it was suspended before, or this
step issued its request. -/
theorem awaited_of_step {s t : State} (h : step s = .next t) (hp : t.hpend = true) :
    (s.hpend = true ∧ ∀ a, awaitedAnswer s.moves = some a → awaitedAnswer t.moves = some a) ∨
    (IssuesRequest s ∧ t.moves = s.moves.tail) := by
  have hk := step_kind_tail h
  generalize hr : s.moves.tail = rest at hk
  cases hk with
  | quiet hh hn =>
    refine .inl ⟨hp, fun a ha => ?_⟩
    cases hm : s.moves with
    | nil => simp [hm, awaitedAnswer] at ha
    | cons m ms =>
      rw [hm, List.tail_cons] at hr
      subst hr
      cases m with
      | host => simpa [hm, awaitedAnswer] using ha
      | lateHash b => simpa [hm, awaitedAnswer] using ha
      | hash b => exact absurd hm (hh hp b ms)
      | rst => exact absurd hm (hn ms)
  | command hq hn w cmds i hc hd =>
    have := execTo_pending (s := { s with cmds := cmds, moves := rest }) hq hp
    exact .inr ⟨⟨_, h, this.1⟩, this.2⟩
  | reservedRd hq => exact absurd (hq.symm.trans hp) Bool.noConfusion
  | reserved hq => exact absurd (hq.symm.trans hp) Bool.noConfusion
  | answer a hm hq => simp at hp
  | reset hm => cases hp

/-- The requests of a run are those of its rest. -/
theorem RequestsAnswered.next {p : HashAnswer → Prop} {s t : State} (h : RequestsAnswered p s) (hs : step s = .next t) :
    RequestsAnswered p t where
  standing := by
    intro hp
    rcases awaited_of_step hs hp with ⟨h1, h2⟩ | ⟨h1, h2⟩
    · obtain ⟨a, ha, pa⟩ := h.standing h1
      exact ⟨a, h2 a ha, pa⟩
    · rw [h2]
      exact h.issued 0 s rfl h1
  issued := fun n u hu hi => h.issued (n + 1) u (by rw [run_succ n hs]; exact hu) hi

/-! The words still to issue and the moves of the host alone take no part in what a command does. -/

/-- Deriving the key with no move to come. -/
theorem State.keyDerive_of_no_move {s : State} (h : s.moves = []) (p : PendCmd) : s.keyDerive p = s.requestHash p :=
  State.awaitHash_waiting (s := s.requestHash p) (fun _ _ e => by simp [h] at e)

/-- Stages 2 to 4 take no account of the words still to issue. -/
theorem State.decodeStages_withCmds (s : State) (ws : List CmdWord) :
    State.decodeStages { s with cmds := ws } = { s.decodeStages with cmds := ws } := by
  simp only [State.decodeStages]
  split_ifs <;> rfl

/-- A command takes no account of the words still to issue. -/
theorem execTo_withCmds {s : State} (h : s.moves = []) (i : Instr) (ws : List CmdWord) :
    execTo i { s with cmds := ws } = { execTo i s with cmds := ws } := by
  cases i with
  | nop => rfl
  | start => rfl
  | push c => simp only [execTo, State.pushChar]; cases digit c <;> rfl
  | kdf =>
    simp only [execTo]
    split
    · rfl
    · rw [State.keyDerive_of_no_move h, State.keyDerive_of_no_move (s := { s with cmds := ws }) h]; rfl
  | decode =>
    simp only [execTo]
    split
    · exact s.decodeStages_withCmds ws
    · rw [State.keyDerive_of_no_move h, State.keyDerive_of_no_move (s := { s with cmds := ws }) h]; rfl
  | rd sel =>
    simp only [execTo]
    cases selectOf sel with
    | none => rfl
    | some r => cases r <;> rfl

/-- With no move to come none is used up. -/
theorem execTo_no_move {s : State} (h : s.moves = []) (i : Instr) : (execTo i s).moves = [] := by
  cases i with
  | nop => exact h
  | start => exact h
  | push c => simpa [execTo] using h
  | kdf =>
    simp only [execTo]
    split
    · exact h
    · rw [State.keyDerive_of_no_move h]; exact h
  | decode =>
    simp only [execTo]
    split
    · simpa using h
    · rw [State.keyDerive_of_no_move h]; exact h
  | rd sel =>
    simp only [execTo]
    cases selectOf sel <;> exact h

/-- The step that issues a command's word, the host alone moving. -/
theorem step_word {s : State} {w : CmdWord} {ws : List CmdWord} {i : Instr} (hm : s.moves = []) (hp : s.hpend = false)
    (hc : s.cmds = w :: ws) (hd : decode w = .command i) : step s = .next (execTo i { s with cmds := ws }) := by
  rw [step_of_no_move hm]
  simp [hostMove, State.cmdReady, hp, hc, issueWord, hd, exec_eq_next]

/-- A list of commands that leaves the block ready is a run that ends, when the host alone moves and each word decodes to its
command. -/
theorem runOutcome_of_execAll {is : List Instr} (hd : ∀ i ∈ is, decode (encode i) = .command i) {s t : State}
    (hm : s.moves = []) (hp : s.hpend = false) (h : execAll is s = .next t) (ht : t.hpend = false) :
    runOutcome is.length { s with cmds := is.map encode } = some t.outcome := by
  induction is generalizing s with
  | nil =>
    cases h
    exact runOutcome_ended (s := { t with cmds := [] }) (by simp [State.runEnded, State.cmdReady, hp]) 0
  | cons i is ih =>
    rw [execAll_cons hp] at h
    have hs : step { s with cmds := (i :: is).map encode } = .next { execTo i s with cmds := is.map encode } := by
      rw [← execTo_withCmds hm]
      exact step_word (s := { s with cmds := (i :: is).map encode }) hm hp rfl (hd i (List.mem_cons_self ..))
    have hr : State.resetNext { s with cmds := (i :: is).map encode } = false := by simp [State.resetNext, hm]
    rw [List.length_cons, runOutcome_step rfl hr hs]
    cases hq : (execTo i s).hpend with
    | true =>
      rw [execAll_suspended hq] at h
      cases h
      exact absurd (hq.symm.trans ht) Bool.noConfusion
    | false => exact ih (fun j hj => hd j (List.mem_cons_of_mem _ hj)) (execTo_no_move hm i) hq h

/-- The word of a select does not depend on the responses delivered. -/
theorem selectWord_withRsps (s : State) (ws : List Word) (r : Select) : selectWord { s with rsps := ws } r = selectWord s r := by
  cases r <;> rfl

/-- RD of a named select delivers its word. -/
theorem execTo_rdSelect (r : Select) (s : State) : execTo (rdSelect r) s = s.respond (selectWord s r) := by
  have h : selectOf r.number = some r := by cases r <;> decide
  simp [rdSelect, execTo, h]

/-- A list of reads delivers the words of its selects in order, and changes nothing else. -/
theorem execAll_rdSelects (rs : List Select) {s : State} (hp : s.hpend = false) :
    execAll (rs.map rdSelect) s = .next { s with rsps := s.rsps ++ rs.map (selectWord s) } := by
  induction rs generalizing s with
  | nil => simp
  | cons r rs ih =>
    rw [List.map_cons, execAll_cons hp, execTo_rdSelect, ih (by exact hp)]
    simp [State.respond, selectWord_withRsps]

end Sys2Proof.Machine
end

