-- ==== Sys2Proof/Laws/Words.lean ====
section
/-! SUPPORT. The concatenations of the data path as numbers: four bytes in a word, four words in the payload
(20_memory.md R53, 44_bitfield_unpacker.md R160). -/

namespace Sys2Proof.Machine

/-- A concatenation as a number. -/
theorem toNat_append_mul {n m : Nat} (x : BitVec n) (y : BitVec m) : (x ++ y).toNat = x.toNat * 2 ^ m + y.toNat := by
  rw [BitVec.toNat_append, Nat.shiftLeft_eq, Nat.mul_comm, ← Nat.two_pow_add_eq_or_of_lt y.isLt]

/-- The payload as a number (R160). -/
theorem Words4.payload_toNat (p : Words4) :
    p.payload.toNat = p.w0.toNat * 2 ^ 96 + p.w1.toNat * 2 ^ 64 + p.w2.toNat * 2 ^ 32 + p.w3.toNat := by
  have h1 : (p.w0 ++ p.w1).toNat = _ := toNat_append_mul p.w0 p.w1
  have h2 : (p.w0 ++ p.w1 ++ p.w2).toNat = _ := toNat_append_mul (p.w0 ++ p.w1) p.w2
  have h3 : p.payload.toNat = _ := toNat_append_mul (p.w0 ++ p.w1 ++ p.w2) p.w3
  rw [h3, h2, h1]
  ring

/-- A key word as a number (41_key_derivation.md R100). -/
theorem keyWord_bytes (d : Digest) (i : Nat) :
    (keyWord d i).toNat = (((digestByte d (4 * i)).toNat * 2 ^ 8 + (digestByte d (4 * i + 1)).toNat) * 2 ^ 8 +
      (digestByte d (4 * i + 2)).toNat) * 2 ^ 8 + (digestByte d (4 * i + 3)).toNat := by
  have h1 : (digestByte d (4 * i) ++ digestByte d (4 * i + 1)).toNat = _ := toNat_append_mul _ _
  have h2 : (digestByte d (4 * i) ++ digestByte d (4 * i + 1) ++ digestByte d (4 * i + 2)).toNat = _ := toNat_append_mul _ _
  have h3 : (keyWord d i).toNat = _ :=
    toNat_append_mul (digestByte d (4 * i) ++ digestByte d (4 * i + 1) ++ digestByte d (4 * i + 2)) (digestByte d (4 * i + 3))
  rw [h3, h2, h1]

/-- A digest byte as a number (20_memory.md R50). -/
theorem digestByte_toNat (d : Digest) (i : Nat) : (digestByte d i).toNat = d.toNat / 2 ^ (248 - 8 * i) % 256 := by
  simp [digestByte, Nat.shiftRight_eq_div_pow]

/-- A ciphertext byte as a number (20_memory.md R52). -/
theorem ctByte_toNat (acc : Wide) (i : Nat) : (ctByte acc i).toNat = acc.toNat / 2 ^ (120 - 8 * i) % 256 := by
  simp [ctByte, Nat.shiftRight_eq_div_pow]

/-- A field as a number (44_bitfield_unpacker.md R161). -/
theorem fieldOf_eq (layout : List Nat) (p i : Nat) :
    fieldOf layout p i = p / 2 ^ fieldOffset layout i % 2 ^ fieldWidth layout i := by
  rw [fieldOf, Nat.and_two_pow_sub_one_eq_mod, Nat.shiftRight_eq_div_pow]

end Sys2Proof.Machine
end

