-- ==== Sys2Proof/Laws/Slicer.lean ====
section
/-! SUPPORT. The slicer as slices and as numbers (44_bitfield_unpacker.md R160 to R163). -/

namespace Sys2Proof.Machine

@[simp] theorem unpack_pt (pt : Words4) : (unpack pt).pt = pt := rfl

/-- Unpack gives the slices of the payload and the flags of the fields. -/
theorem unpack_sliced (pt : Words4) : (unpack pt).Sliced := by
  constructor
  case padnz => simp [unpack, padNonZero]
  case shi => simp [unpack, aboveCeiling]
  case phi => simp [unpack, aboveCeiling]
  all_goals
    apply BitVec.eq_of_toNat_eq
    simp [unpack, padOf, fieldOf_eq, fieldOffset, fieldWidth, Config.layout, Nat.shiftRight_eq_div_pow]

/-- The payload made of the words of a number is that number. -/
theorem Words4.payload_ofPayload (x : Wide) : (Words4.ofPayload x).payload = x := by
  apply BitVec.eq_of_toNat_eq
  rw [Words4.payload_toNat]
  simp only [Words4.ofPayload, BitVec.extractLsb'_toNat, Nat.shiftRight_eq_div_pow]
  have := x.isLt
  omega

/-- A packed payload as a number. -/
theorem pack_toNat (a : BitVec 8) (b : BitVec 40) (c d : BitVec 30) (e f : BitVec 10) :
    (pack a b c d e f).toNat =
      a.toNat * 2 ^ 120 + b.toNat * 2 ^ 80 + c.toNat * 2 ^ 50 + d.toNat * 2 ^ 20 + e.toNat * 2 ^ 10 + f.toNat := by
  have h1 : (a ++ b).toNat = _ := toNat_append_mul a b
  have h2 : (a ++ b ++ c).toNat = _ := toNat_append_mul (a ++ b) c
  have h3 : (a ++ b ++ c ++ d).toNat = _ := toNat_append_mul (a ++ b ++ c) d
  have h4 : (a ++ b ++ c ++ d ++ e).toNat = _ := toNat_append_mul (a ++ b ++ c ++ d) e
  have h5 : (pack a b c d e f).toNat = _ := toNat_append_mul (a ++ b ++ c ++ d ++ e) f
  rw [h5, h4, h3, h2, h1]
  ring

/-- `RND` of a free value keeps its bound (10_state.md R29). -/
theorem freeCipherRegs_rnd_le (n : Nat) : (freeCipherRegs n).rnd.toNat ≤ 32 := by
  simp only [freeCipherRegs, BitVec.toNat_ofNat]
  omega

end Sys2Proof.Machine
end

