-- ==== Sys2Proof/Laws/Transcoder.lean ====
section
/-! SUPPORT. Streaming a token: the states after a list of PUSH commands, and the digit strings of 42_base62_transcoder.md R124. -/

namespace Sys2Proof.Machine

/-- Commands in two parts, the first of which leaves the block ready. -/
theorem execAll_append {a : List Instr} (b : List Instr) {s t : State} (h : execAll a s = .next t) (ht : t.hpend = false) :
    execAll (a ++ b) s = execAll b t := by
  induction a generalizing s with
  | nil => cases h; rfl
  | cons i is ih =>
    cases hp : s.hpend with
    | true =>
      rw [execAll_suspended hp] at h
      cases h
      exact absurd (hp.symm.trans ht) Bool.noConfusion
    | false =>
      rw [execAll_cons hp] at h
      rw [List.cons_append, execAll_cons hp]
      exact ih h

/-- The state after pushing every character of a token. -/
def State.pushAll : List Byte → State → State
  | [], s => s
  | c :: cs, s => State.pushAll cs (s.pushChar c)

/-- A token's PUSH commands. -/
theorem execAll_map_push (tok : List Byte) {s : State} (h : s.hpend = false) :
    execAll (tok.map .push) s = .next (s.pushAll tok) := by
  induction tok generalizing s with
  | nil => rfl
  | cons c cs ih =>
    rw [List.map_cons, execAll_cons h]
    exact ih ((s.pushChar_hpend c).trans h)

/-- Pushing writes `ACC`, `OVF`, `BADC` and nothing else. -/
theorem State.pushAll_frame (tok : List Byte) (s : State) :
    s.pushAll tok = { s with acc := (s.pushAll tok).acc, ovf := (s.pushAll tok).ovf, badc := (s.pushAll tok).badc } := by
  induction tok generalizing s with
  | nil => rfl
  | cons c cs ih =>
    simp only [State.pushAll]
    rw [ih, State.pushChar_frame]

/-- `BADC` after pushing a token. -/
theorem State.pushAll_badc (tok : List Byte) (s : State) :
    (s.pushAll tok).badc = true ↔ s.badc = true ∨ ∃ c ∈ tok, digit c = none := by
  induction tok generalizing s with
  | nil => simp [State.pushAll]
  | cons c cs ih =>
    simp only [State.pushAll, ih]
    cases hd : digit c with
    | none => simp [State.pushChar_of_none hd, hd]
    | some d => simp [State.pushChar_of_digit hd, hd, State.appendDigit]

/-- A token has no digit string exactly if a character is outside the alphabet. -/
theorem tokenDigits_eq_none (tok : List Byte) : tokenDigits tok = none ↔ ∃ c ∈ tok, digit c = none := by
  induction tok with
  | nil => simp [tokenDigits]
  | cons c cs ih =>
    simp only [tokenDigits]
    cases hd : digit c <;> cases ht : tokenDigits cs <;> simp_all

/-- The digit string of a nonempty token. -/
theorem tokenDigits_cons {c : Byte} {cs : List Byte} {ds : List Nat} (h : tokenDigits (c :: cs) = some ds) :
    ∃ d es, digit c = some d ∧ tokenDigits cs = some es ∧ ds = d :: es := by
  simp only [tokenDigits] at h
  cases hd : digit c <;> cases ht : tokenDigits cs <;> simp_all

/-- One digit for each character. -/
theorem tokenDigits_length {tok : List Byte} {ds : List Nat} (h : tokenDigits tok = some ds) : ds.length = tok.length := by
  induction tok generalizing ds with
  | nil => simp only [tokenDigits, Option.some.injEq] at h; subst h; rfl
  | cons c cs ih =>
    obtain ⟨d, es, -, ht, rfl⟩ := tokenDigits_cons h
    rw [List.length_cons, List.length_cons, ih ht]

/-- A value of n digits is below 62^n. -/
theorem digitsValue_lt {tok : List Byte} {ds : List Nat} (h : tokenDigits tok = some ds) : digitsValue ds < 62 ^ ds.length := by
  induction tok generalizing ds with
  | nil => simp only [tokenDigits, Option.some.injEq] at h; subst h; simp [digitsValue]
  | cons c cs ih =>
    obtain ⟨d, es, hd, ht, rfl⟩ := tokenDigits_cons h
    have h1 := ih ht
    have h2 := digit_lt hd
    simp only [digitsValue, Config.radix, List.length_cons] at *
    have : d * 62 ^ es.length ≤ 61 * 62 ^ es.length := Nat.mul_le_mul_right _ (by omega)
    rw [Nat.pow_succ]
    omega

end Sys2Proof.Machine
end

