-- ==== Sys2Proof/Machine/Sha256.lean ====
section
/-! DEFINITION. SHA-256, the recommended instantiation of HASH256 (41_key_derivation.md R108, general knowledge G1 of the spec). No
step uses it: HASH256 stays a parameter (R101, log entry 8). It lets a hash agent's answer be computed for a known secret. -/

namespace Sys2Proof.Machine.Sha256

/-- `ROTR(x, n)`. -/
def rotr (x : Word) (n : Nat) : Word := (x >>> n) ||| (x <<< (32 - n))

/-- `Kc[0..63]`. -/
def roundConstants : List Word :=
  [0x428a2f98#32, 0x71374491#32, 0xb5c0fbcf#32, 0xe9b5dba5#32, 0x3956c25b#32, 0x59f111f1#32, 0x923f82a4#32, 0xab1c5ed5#32,
   0xd807aa98#32, 0x12835b01#32, 0x243185be#32, 0x550c7dc3#32, 0x72be5d74#32, 0x80deb1fe#32, 0x9bdc06a7#32, 0xc19bf174#32] ++
  [0xe49b69c1#32, 0xefbe4786#32, 0x0fc19dc6#32, 0x240ca1cc#32, 0x2de92c6f#32, 0x4a7484aa#32, 0x5cb0a9dc#32, 0x76f988da#32,
   0x983e5152#32, 0xa831c66d#32, 0xb00327c8#32, 0xbf597fc7#32, 0xc6e00bf3#32, 0xd5a79147#32, 0x06ca6351#32, 0x14292967#32] ++
  [0x27b70a85#32, 0x2e1b2138#32, 0x4d2c6dfc#32, 0x53380d13#32, 0x650a7354#32, 0x766a0abb#32, 0x81c2c92e#32, 0x92722c85#32,
   0xa2bfe8a1#32, 0xa81a664b#32, 0xc24b8b70#32, 0xc76c51a3#32, 0xd192e819#32, 0xd6990624#32, 0xf40e3585#32, 0x106aa070#32] ++
  [0x19a4c116#32, 0x1e376c08#32, 0x2748774c#32, 0x34b0bcb5#32, 0x391c0cb3#32, 0x4ed8aa4a#32, 0x5b9cca4f#32, 0x682e6ff3#32,
   0x748f82ee#32, 0x78a5636f#32, 0x84c87814#32, 0x8cc70208#32, 0x90befffa#32, 0xa4506ceb#32, 0xbef9a3f7#32, 0xc67178f2#32]

/-- The eight working words `a`..`h`. -/
structure Vars where
  a : Word
  b : Word
  c : Word
  d : Word
  e : Word
  f : Word
  g : Word
  h : Word
  deriving DecidableEq, Repr

/-- The initial `H`. -/
def initial : Vars :=
  ⟨0x6a09e667#32, 0xbb67ae85#32, 0x3c6ef372#32, 0xa54ff53a#32, 0x510e527f#32, 0x9b05688c#32, 0x1f83d9ab#32, 0x5be0cd19#32⟩

/-- `W[t]` from the words before it, newest first. -/
def nextWord (ws : List Word) : Word :=
  let x15 := ws.getD 14 0#32
  let x2 := ws.getD 1 0#32
  ws.getD 15 0#32 + (rotr x15 7 ^^^ rotr x15 18 ^^^ (x15 >>> 3)) + ws.getD 6 0#32 + (rotr x2 17 ^^^ rotr x2 19 ^^^ (x2 >>> 10))

/-- `n` more schedule words, newest first. -/
def extend : Nat → List Word → List Word
  | 0, ws => ws
  | n + 1, ws => extend n (nextWord ws :: ws)

/-- One round with schedule word `w` and constant `k`. -/
def round (v : Vars) (k w : Word) : Vars :=
  let t1 := v.h + (rotr v.e 6 ^^^ rotr v.e 11 ^^^ rotr v.e 25) + ((v.e &&& v.f) ^^^ (~~~v.e &&& v.g)) + k + w
  let t2 := (rotr v.a 2 ^^^ rotr v.a 13 ^^^ rotr v.a 22) + ((v.a &&& v.b) ^^^ (v.a &&& v.c) ^^^ (v.b &&& v.c))
  ⟨t1 + t2, v.a, v.b, v.c, v.d + t1, v.e, v.f, v.g⟩

/-- The rounds over constants and schedule words. -/
def rounds : List Word → List Word → Vars → Vars
  | k :: ks, w :: ws, v => rounds ks ws (round v k w)
  | _, _, v => v

/-- Big-endian 32-bit words of a byte string, four bytes each. -/
def wordsOf : List Byte → List Word
  | b0 :: b1 :: b2 :: b3 :: bs => (b0 ++ b1 ++ b2 ++ b3) :: wordsOf bs
  | _ => []

/-- One 64-byte chunk added to `H`. -/
def compress (hh : Vars) (chunk : List Byte) : Vars :=
  let v := rounds roundConstants (extend 48 (wordsOf chunk).reverse).reverse hh
  ⟨hh.a + v.a, hh.b + v.b, hh.c + v.c, hh.d + v.d, hh.e + v.e, hh.f + v.f, hh.g + v.g, hh.h + v.h⟩

/-- `n` bytes of a number, most significant first. -/
def beBytes : Nat → Nat → List Byte
  | 0, _ => []
  | n + 1, x => BitVec.ofNat 8 (x / 256 ^ n) :: beBytes n x

/-- `M'`: 0x80, zeros to 56 modulo 64, the bit length in 8 bytes. -/
def padded (m : List Byte) : List Byte :=
  m ++ [0x80#8] ++ List.replicate ((119 - m.length % 64) % 64) 0#8 ++ beBytes 8 (8 * m.length)

/-- The chunks of a byte string, at most `n` of them. -/
def compressAll : Nat → List Byte → Vars → Vars
  | 0, _, hh => hh
  | n + 1, bs, hh => compressAll n (bs.drop 64) (compress hh (bs.take 64))

/-- SHA-256 of a byte string (R108). -/
def digest (m : List Byte) : Digest :=
  let v := compressAll ((padded m).length / 64) (padded m) initial
  v.a ++ v.b ++ v.c ++ v.d ++ v.e ++ v.f ++ v.g ++ v.h

end Sys2Proof.Machine.Sha256
end

