-- ==== Sys2Proof/Tests/Slice0.lean ====
section
/-! SUPPORT. Tests. Expected results are the spec's: 95_test_vectors.md, by the id in each docstring, or the encodings of
30_encoding.md R82. Then one theorem `witness_<Name>` for each obligation with hypotheses: values that meet them, clause by clause. -/

namespace Sys2Proof.Tests

open Sys2Proof Sys2Proof.Machine

/-! ## Helpers -/

/-- The state an outcome leads to, for reading one field of it. -/
def after : StepResult → State
  | .next t => t
  | .fault _ => State.reset
  | .refused _ => State.reset

/-- Whether an outcome is a next state. -/
def isNext : StepResult → Bool
  | .next _ => true
  | .fault _ => false
  | .refused _ => false

/-- The digest of vector K1. -/
def digestK1 : Digest := 0x5e83983bf75cf2da99594a8cc99a70dac672f00a0a6555f6da6655ab921680ef#256

/-- The test key of 95_test_vectors.md. -/
def testKey : Words4 := ⟨0x5E83983B#32, 0xF75CF2DA#32, 0x99594A8C#32, 0xC99A70DA#32⟩

/-- The block with the test key held (`KeyHeld` of 70_reset_and_hazards.md R261). -/
def keyed : State := { State.reset with k := testKey, keyv := true, hreqs := 1 }

/-- The block after the hash primitive was unavailable. -/
def failed : State := { State.reset with fatal := true, hreqs := 1 }

/-- The block with a command suspended, and the moves to come. -/
def suspended (p : PendCmd) (ms : List Move) : State := { State.reset with hpend := true, pendcmd := p, hreqs := 1, moves := ms }

/-- The accumulator of vector E1. -/
def accE1 : Wide := 0x107ED408AA079EB48F60AF39A16B9AE0#128

/-- The plaintext words of vector F1. -/
def ptF1 : Words4 := ⟨0x0002540B#32, 0xE3FF0000#32, 0xC0E4000D#32, 0x43100C07#32⟩

/-- The results of vector F1. -/
def resF1 : Results := ⟨ptF1, 0#8, 9999999999#40, 12345#30, 54321#30, 3#10, 7#10, false, false, false⟩

/-- The block after the DECODE of vector E1, its working registers at 0. -/
def decoded : State := { keyed with acc := accE1, res := resF1, valid := true }

/-- The token of vector T17. -/
def tokT17 : List Byte :=
  [0x68#8, 0x58#8, 0x65#8, 0x63#8, 0x6E#8, 0x71#8, 0x77#8, 0x66#8, 0x44#8, 0x50#8, 0x56#8] ++
  [0x55#8, 0x6A#8, 0x58#8, 0x69#8, 0x57#8, 0x33#8, 0x68#8, 0x70#8, 0x52#8, 0x4D#8, 0x68#8]

/-- The token of vector E1. -/
def tokE1 : List Byte :=
  [0x46#8, 0x68#8, 0x5A#8, 0x36#8, 0x34#8, 0x57#8, 0x6C#8, 0x49#8, 0x67#8, 0x37#8, 0x71#8] ++
  [0x6C#8, 0x4D#8, 0x41#8, 0x59#8, 0x67#8, 0x41#8, 0x59#8, 0x61#8, 0x7A#8, 0x63#8]

/-! ## Well-formedness -/

/-- RD's select is 0 to 15 (30_encoding.md R82). -/
theorem test_wellFormed_refuses_rd16 : (Instr.rd 16#8).wellFormed = false := by decide
theorem test_wellFormed_refuses_rd255 : (Instr.rd 255#8).wellFormed = false := by decide
theorem test_wellFormed_takes_rd15 : (Instr.rd 15#8).wellFormed = true := by decide

/-! ## Decoding: the words of 30_encoding.md R82, bit by bit -/

theorem test_decode_nop : decode 0b0000000000000000#16 = .command .nop := by decide
theorem test_decode_start : decode 0b0000000100000000#16 = .command .start := by decide
theorem test_decode_push_a : decode 0b0000001001100001#16 = .command (.push 0x61#8) := by decide
theorem test_decode_push_ff : decode 0b0000001011111111#16 = .command (.push 0xFF#8) := by decide
theorem test_decode_kdf : decode 0b0000001100000000#16 = .command .kdf := by decide
theorem test_decode_decode : decode 0b0000010000000000#16 = .command .decode := by decide
theorem test_decode_rd_status : decode 0b0000010100000000#16 = .command (.rd 0#8) := by decide
theorem test_decode_rd_pt3 : decode 0b0000010100001111#16 = .command (.rd 15#8) := by decide
/-- The edges of 95_test_vectors.md 2.7. -/
theorem test_decode_reserved : decode 0x01FF#16 = .reserved ∧ decode 0x0301#16 = .reserved ∧ decode 0x0480#16 = .reserved ∧
    decode 0x0510#16 = .reservedRd ∧ decode 0x0600#16 = .reserved := by decide

/-! ## One command -/

theorem test_nop_leaves_acc : (after (exec .nop decoded)).acc = accE1 := by decide

/-- X6: START clears `ERR` and `BADC`, `KEYV` stays. -/
theorem test_start_keeps_keyv : statusWord (after (exec .start { keyed with badc := true, err := 1#3 })) = 0x00000001#32 := by
  decide
/-- P7: START does not clear `CMDERR`. -/
theorem test_start_keeps_cmderr : statusWord (after (exec .start { State.reset with cmderr := true })) = 0x00000800#32 := by decide

/-- P6: `ACC` of E1 times 62, modulo 2^128. -/
theorem test_push_wraps : (after (exec (.push 0x61#8) decoded)).acc = 0xFEB75A192DD86FBAB96A6FF5180F8240#128 ∧
    statusWord (after (exec (.push 0x61#8) decoded)) = 0x00000083#32 := by decide +kernel
/-- T22: an invalid character leaves `ACC`. -/
theorem test_push_invalid : (after (exec (.push 0x2D#8) { State.reset with acc := 1#128 })).acc = 1#128 ∧
    (after (exec (.push 0x2D#8) { State.reset with acc := 1#128 })).badc = true := by decide

/-- K5. -/
theorem test_kdf_loads_key : (after (exec .kdf { State.reset with moves := [.hash (.digest digestK1)] })).k = testKey ∧
    statusWord (after (exec .kdf { State.reset with moves := [.hash (.digest digestK1)] })) = 1#32 := by decide +kernel
/-- K7. -/
theorem test_kdf_unavailable : statusWord (after (exec .kdf { State.reset with moves := [.hash .unavailable] })) = 0x20#32 := by
  decide +kernel

/-- E1. -/
theorem test_decode_e1 : (after (exec .decode { keyed with acc := accE1 })).res = resF1 ∧
    statusWord (after (exec .decode { keyed with acc := accE1 })) = 3#32 := by decide +kernel
/-- X4: code 3 before code 1. -/
theorem test_decode_x4 : statusWord (after (exec .decode { State.reset with badc := true, moves := [.hash .unavailable] })) =
    0x6C#32 := by decide +kernel

/-- P1: the high byte and the low word of the phone number. -/
theorem test_rd_phone : (after (exec (.rd 1#8) decoded)).rsps = [0x00000002#32] ∧
    (after (exec (.rd 2#8) decoded)).rsps = [0x540BE3FF#32] := by decide
/-- The CT view after T12. -/
theorem test_rd_ct3 : (after (exec (.rd 11#8) { State.reset with acc := 0xBAFBA1#128 })).rsps = [0x00BAFBA1#32] := by
  decide +kernel

/-- P7: `0510` answers 0 and sets `CMDERR`. -/
theorem test_step_reserved_rd : (after (step { State.reset with cmds := [0x0510#16] })).rsps = [0#32] ∧
    statusWord (after (step { State.reset with cmds := [0x0510#16] })) = 0x800#32 := by decide +kernel
/-- P7: `FFFF` sets `CMDERR` and answers nothing. -/
theorem test_step_reserved : (after (step { State.reset with cmds := [0xFFFF#16] })).rsps = [] ∧
    statusWord (after (step { State.reset with cmds := [0xFFFF#16] })) = 0x800#32 := by decide +kernel

/-! ## The parts -/

/-- T12. -/
theorem test_decode62_zz09 : decode62 [0x5A#8, 0x7A#8, 0x30#8, 0x39#8] = .ok 0xBAFBA1#128 := by decide +kernel
/-- T23: the invalid character is reported, whatever the value. -/
theorem test_decode62_invalid : decode62 (tokT17 ++ [0x2D#8]) = .error .invalidTokenCharacter := by decide +kernel
/-- B1. -/
theorem test_encrypt_b1 : encryptBlock 0#32 0#32 Words4.zero = (0x41EA3A0A#32, 0x94BAA940#32) := by decide +kernel
/-- The first row of the trace of B2. -/
theorem test_round_trace : (decryptRound Words4.zero (cipherLoad 0#1 0x41EA3A0A#32 0x94BAA940#32)).v0 = 0xFA8572E9#32 ∧
    (decryptRound Words4.zero (cipherLoad 0#1 0x41EA3A0A#32 0x94BAA940#32)).v1 = 0x804528E6#32 ∧
    (decryptRound Words4.zero (cipherLoad 0#1 0x41EA3A0A#32 0x94BAA940#32)).sum = 0x28B7BD67#32 := by decide +kernel
/-- F11. -/
theorem test_unpack_f11 : unpack ⟨0xA5024CB0#32, 0x16EA17D7#32, 0x84045F5E#32, 0x1000C806#32⟩ =
    ⟨⟨0xA5024CB0#32, 0x16EA17D7#32, 0x84045F5E#32, 0x1000C806#32⟩, 165#8, 9876543210#40, 100000001#30, 100000000#30, 50#10, 6#10,
      true, true, false⟩ := by decide +kernel
/-- F12. -/
theorem test_unpack_f12 : (unpack ⟨0x00000000#32, 0x000017D7#32, 0x84005F5E#32, 0x10100000#32⟩).settle = 100000000#30 ∧
    (unpack ⟨0x00000000#32, 0x000017D7#32, 0x84005F5E#32, 0x10100000#32⟩).shi = false ∧
    (unpack ⟨0x00000000#32, 0x000017D7#32, 0x84005F5E#32, 0x10100000#32⟩).phi = true := by decide +kernel
/-- The digest 00 01 02 … 1F of 95_test_vectors.md 2.1. -/
theorem test_keyWords : keyWords 0x000102030405060708090A0B0C0D0E0F101112131415161718191A1B1C1D1E1F#256 =
    ⟨0x00010203#32, 0x04050607#32, 0x08090A0B#32, 0x0C0D0E0F#32⟩ := by decide +kernel
/-- K2. -/
theorem test_sha256_empty : Sha256.digest [] = 0xe3b0c44298fc1c149afbf4c8996fb92427ae41e4649b934ca495991b7852b855#256 := by
  decide +kernel
/-- K3. -/
theorem test_sha256_abc : Sha256.digest [0x61#8, 0x62#8, 0x63#8] =
    0xba7816bf8f01cfea414140de5dae2223b00361a396177a9cb410ff61f20015ad#256 := by decide +kernel
/-- K1. -/
theorem test_sha256_secret : Sha256.digest [0x72#8, 0x66#8, 0x74#8, 0x64#8, 0x2D#8, 0x74#8, 0x65#8, 0x73#8, 0x74#8, 0x2D#8, 0x73#8,
    0x65#8, 0x63#8, 0x72#8, 0x65#8, 0x74#8] = digestK1 := by decide +kernel

/-- The notation of 30_encoding.md R89, R90. -/
theorem test_assemble : assemble ["  PUSH 'a' ; first".toList, "RD PHONE_LO".toList, "TOKEN \"b-\"".toList, "; none".toList,
    "PUSH 0x2F".toList] = some [0x0261#16, 0x0502#16, 0x0100#16, 0x0262#16, 0x022D#16, 0x022F#16] := by decide +kernel
theorem test_assemble_refuses : assemble ["PUSH 256".toList] = none ∧ assemble ["RD 16".toList] = none ∧
    assemble ["ADD".toList] = none := by decide +kernel
/-- S2. -/
theorem test_names : nameOf [(6, "six")] 0 = "Unknown" ∧ nameOf [(999, "x")] 999 = "Unknown" ∧ nameOf [(6, "six")] 6 = "six" := by
  decide
/-- P1, host side. -/
theorem test_phone_digits : decimalDigits (phoneNumber 2#32 0x540BE3FF#32) = "9999999999".toList := by decide +kernel

/-! ## Witnesses: the hypotheses of each obligation are met -/

/-- The state of vector E1 meets the invariant. -/
theorem decoded_inv : decoded.Inv where
  keyOrFatal := by decide
  emptyUnlessValid := by decide
  validResult := fun _ => ⟨by decide, by decide, by constructor <;> decide +kernel⟩
  errCode := by decide
  pendingUnanswered := by decide
  oneRequest := by decide
  pendcmdAtRest := by decide
  roundBound := by decide

/-- The reset state meets the invariant's clauses, whatever the host offers and the error code of an empty result is. -/
theorem empty_inv (e : BitVec 3) (he : e = 0#3 ∨ e = 1#3 ∨ e = 2#3 ∨ e = 3#3) (ws : List CmdWord) (ms : List Move) :
    State.Inv { State.reset with err := e, cmds := ws, moves := ms } where
  keyOrFatal := fun h => absurd h.1 Bool.false_ne_true
  emptyUnlessValid := fun _ => rfl
  validResult := fun h => absurd h Bool.false_ne_true
  errCode := he
  pendingUnanswered := fun h => absurd h Bool.false_ne_true
  oneRequest := rfl
  pendcmdAtRest := fun _ => rfl
  roundBound := Nat.zero_le 32

theorem witness_StepKeepsInvariant :
    ∃ s t : State, s.Inv ∧ step s = .next t ∧ t.acc = 1#128 :=
  ⟨{ State.reset with err := 0#3, cmds := [0x0262#16], moves := [] }, _, empty_inv 0#3 (by decide) _ _, rfl, by decide +kernel⟩

theorem witness_StepRunsDecodedCommand :
    (∃ (s : State) (ms : List Move), s.hpend = false ∧ HostMovesNext s ms ∧ s.cmds = [0x0262#16] ∧ s.moves = []) ∧
    (∃ (s : State) (ms : List Move), s.hpend = false ∧ HostMovesNext s ms ∧ s.cmds = [0x050F#16] ∧ s.moves ≠ []) ∧
    decode 0x0262#16 = .command (.push 0x62#8) ∧ decode 0x050F#16 = .command (.rd 15#8) :=
  ⟨⟨{ State.reset with cmds := [0x0262#16] }, [], rfl, .inl ⟨rfl, rfl⟩, rfl, rfl⟩,
   ⟨{ State.reset with cmds := [0x050F#16], moves := [.host] }, [], rfl, .inr rfl, rfl, by decide⟩, by decide, by decide⟩

theorem witness_FetchWordIsRunNext : (Instr.rd 15#8).wellFormed = true ∧ (Instr.push 0xFF#8).wellFormed = true ∧
    decodeTableWord 16 0x050F = some (.rd 15#8) ∧ (after (step (State.reset.withFetchWord 16 0x0262))).acc = 1#128 := by
  decide +kernel

theorem witness_ReservedWordSetsCmdErrOnly :
    (∃ (s : State) (ms : List Move), s.hpend = false ∧ HostMovesNext s ms ∧ s.cmds = [0xFFFF#16, 0x0510#16]) ∧
    decode 0xFFFF#16 = .reserved ∧ decode 0x0001#16 = .reserved ∧ decode 0x0510#16 = .reservedRd ∧ decode 0x05FF#16 = .reservedRd :=
  ⟨⟨{ State.reset with cmds := [0xFFFF#16, 0x0510#16] }, [], rfl, .inl ⟨rfl, rfl⟩, rfl⟩, by decide⟩

theorem witness_RdOfReservedSelectActsAsReservedWord : 16 ≤ (16#8).toNat ∧ 16 ≤ (255#8).toNat ∧
    (after (exec (.rd 16#8) State.reset)).cmderr = true := by decide

/-- The words of a program without reserved words; then the move after which `CMDERR` stays 0. -/
theorem witness_CmdErrOnlyFromReservedWords :
    ∃ s t : State, NoReservedWords s ∧ step s = .next t ∧ s.cmderr = false ∧ s.cmds = [0x02FF#16, 0x050F#16] := by
  refine ⟨{ State.reset with cmds := [0x02FF#16, 0x050F#16] }, _, ?_, rfl, rfl, rfl⟩
  intro w hw
  have hw' : w = 0x02FF#16 ∨ w = 0x050F#16 := by simpa using hw
  rcases hw' with rfl | rfl
  · exact ⟨.push 0xFF#8, by decide⟩
  · exact ⟨.rd 15#8, by decide⟩

theorem witness_SuspendedBlockTakesNoWord : ∃ (s : State) (ms : List Move),
    s.hpend = true ∧ HostMovesNext s ms ∧ s.cmds = [0x0500#16] ∧ (after (step s)).cmds = [0x0500#16] ∧
    (after (execAll [.nop, .start] s)).cmds = [0x0000#16, 0x0100#16, 0x0500#16] :=
  ⟨{ suspended .kdf [.host] with cmds := [0x0500#16] }, [], rfl, .inr rfl, rfl, rfl, by decide⟩

/-- Nothing asked for; and a request standing while an answer to one before the reset comes. -/
theorem witness_UnrequestedAnswerChangesNothing :
    (∃ (s : State) (ms : List Move), s.hpend = false ∧ s.moves = .hash (.digest digestK1) :: ms ∧ (after (step s)).keyv = false) ∧
    (∃ (s : State) (ms : List Move), s.moves = .lateHash (.digest digestK1) :: ms ∧ s.hpend = true ∧
      (after (step s)).hpend = true ∧ (after (step s)).keyv = false) :=
  ⟨⟨{ State.reset with moves := [.hash (.digest digestK1)] }, [], rfl, rfl, rfl⟩,
   ⟨suspended .kdf [.lateHash (.digest digestK1)], [], rfl, rfl, rfl, rfl⟩⟩

theorem witness_ResetMoveRestoresBlock : ∃ (s : State) (ms : List Move),
    s.moves = .rst :: ms ∧ s.hpend = true ∧ (after (step s)).hpend = false :=
  ⟨suspended .decode [.rst], [], rfl, rfl, rfl⟩

theorem witness_OnlyResetClearsStickyFlags : ∃ s t s' t' : State,
    step s = .next t ∧ (∀ ms, s.moves ≠ .rst :: ms) ∧ s.keyv = true ∧ s.cmderr = true ∧
    step s' = .next t' ∧ (∀ ms, s'.moves ≠ .rst :: ms) ∧ s'.fatal = true :=
  ⟨{ keyed with cmderr := true, cmds := [0x0100#16] }, _, { failed with cmds := [0x0100#16] }, _, rfl, (by intro ms h; cases h), rfl,
    rfl, rfl, (by intro ms h; cases h), rfl⟩

theorem witness_HeldKeyIsImmutable :
    ∃ s t : State, s.Inv ∧ step s = .next t ∧ (∀ ms, s.moves ≠ .rst :: ms) ∧ s.keyv = true ∧ s.k = testKey :=
  ⟨decoded, _, decoded_inv, rfl, (by intro ms h; cases h), rfl, rfl⟩

theorem witness_UnansweredRequestHangs : ∃ s : State, s.hpend = true ∧ s.moves = [] ∧ s.cmds ≠ [] :=
  ⟨{ suspended .decode [] with cmds := [0x0500#16] }, rfl, rfl, by decide⟩

/-- KDF to come after reset, and its answer a move of the host after the request (K5). -/
def kdfToCome : State := { State.reset with moves := [.host, .host, .hash (.digest digestK1)] }

/-- A block with nothing to do stays as it is. -/
theorem run_idle {s : State} (hp : s.hpend = false) (hm : s.moves = []) (hc : s.cmds = []) (n : Nat) {t : State}
    (h : Host.Core.run Sys2Proof.core n s = .next t) : t = s := by
  have hs : step s = .next s := by rw [step_of_no_move hm]; simp [hostMove, State.cmdReady, hp, hc]
  induction n with
  | zero => exact (Host.Outcome.next.inj h).symm
  | succ n ih => rw [run_succ n hs] at h; exact ih h

/-- A block with nothing to do issues no request. -/
theorem idle_issues_none {s : State} (hp : s.hpend = false) (hm : s.moves = []) (hc : s.cmds = []) : ¬ IssuesRequest s := by
  rintro ⟨u, hu, hr⟩
  rw [step_of_no_move hm] at hu
  simp only [hostMove, State.cmdReady, hp, hc, Bool.not_false, if_true] at hu
  cases hu
  omega

/-- Every request of the run of `KDF` is answered with the digest. -/
theorem kdfToCome_answered : HashAvailable digestK1 (kdfToCome.launch [0x0300#16]) where
  standing := fun h => absurd h (by decide)
  issued := by
    intro n t h hi
    match n, h with
    | 0, h => cases h; exact ⟨_, rfl, rfl⟩
    | 1, h => cases h; obtain ⟨u, hu, hr⟩ := hi; cases hu; exact absurd hr (by decide)
    | 2, h => cases h; obtain ⟨u, hu, hr⟩ := hi; cases hu; exact absurd hr (by decide)
    | m + 3, h =>
      have e := run_idle (s := after (Host.Core.run Sys2Proof.core 3 (kdfToCome.launch [0x0300#16]))) rfl rfl rfl m h
      subst e
      exact absurd hi (idle_issues_none rfl rfl rfl)

/-- The same once the request is issued. -/
theorem kdfIssued_answered : HashAvailable digestK1 (after (step (kdfToCome.launch [0x0300#16]))) where
  standing := fun _ => ⟨_, rfl, rfl⟩
  issued := fun n t h hi => kdfToCome_answered.issued (n + 1) t (by rw [run_succ n rfl]; exact h) hi

/-- An answer before the request is none: this KDF hangs, and the premise excludes it. -/
theorem test_early_answer_is_none :
    ¬ HashAnswers { State.reset with cmds := [0x0300#16], moves := [.hash (.digest digestK1)] } := by
  intro h
  obtain ⟨a, ha, -⟩ := h.issued 1 _ rfl ⟨_, rfl, by decide⟩
  cases ha

/-- K5 as a run: its end, and the STATUS it delivers; K9: no end. -/
theorem test_run_outcome : (runOutcome 4 ({ kdfToCome with moves := [.host, .hash (.digest digestK1)] }.launch
      [0x0300#16, 0x0500#16])).map (fun o => (o.responses, o.final.k)) = some ([1#32], testKey) ∧
    (runOutcome 4 (State.reset.launch [0x0300#16, 0x0500#16])).isNone = true := by decide +kernel

/-- A standing request with its answer two moves away; and a program whose request is answered. -/
theorem witness_AnsweredRequestResumes :
    (∃ s : State, s.hpend = true ∧ HashAnswers s ∧ HashAvailable digestK1 s) ∧
    (∃ s : State, HashAnswers (s.launch [0x0300#16]) ∧ NoReset s) :=
  ⟨⟨_, by decide, kdfIssued_answered.answers, kdfIssued_answered⟩,
   ⟨kdfToCome, kdfToCome_answered.answers, by unfold NoReset; decide⟩⟩

theorem witness_NopLeavesEverything : ∃ (s : State) (ms : List Move) (rest : List CmdWord),
    s.hpend = true ∧ HostMovesNext s ms ∧ s.cmds = 0x0000#16 :: rest :=
  ⟨{ suspended .decode [] with cmds := [0x0000#16] }, [], [], rfl, .inl ⟨rfl, rfl⟩, rfl⟩

/-- The states of START's corner cases and of its example (42_base62_transcoder.md R122). -/
theorem witness_StartClearsToken :
    (∃ s : State, AfterReset s ∧ s.rsps ≠ []) ∧ (∃ t, failed.fatal = true ∧ exec .start failed = .next t) ∧
    (∃ s : State, statusWord s = 0x00000443#32) :=
  ⟨⟨State.resetBlock { decoded with rsps := [1#32] }, State.resetBlock_afterReset _, by decide⟩, ⟨_, rfl, rfl⟩,
   ⟨{ keyed with valid := true, badc := true, res := { Results.empty with phi := true } }, by decide⟩⟩

/-- The bounds of the three ranges, and the codes just outside (95_test_vectors.md 2.2). -/
theorem witness_DigitOfCharacterCode :
    [0x61#8, 0x7A#8, 0x41#8, 0x5A#8, 0x30#8, 0x39#8].map digit = [some 0, some 25, some 26, some 51, some 52, some 61] ∧
    [0x2F#8, 0x3A#8, 0x40#8, 0x5B#8, 0x60#8, 0x7B#8, 0x00#8, 0xFF#8].map digit = List.replicate 8 none := by decide

/-- T17 to T18: the digit that reaches 2^128, and the one just below. -/
theorem witness_PushAppendsDigit : digit 0x2D#8 = none ∧ digit 0x68#8 = some 7 ∧ digit 0x69#8 = some 8 ∧
    (2 ^ 128 - 1 - 7) % 62 = 0 ∧ ((2 ^ 128 - 8) / 62) * 62 + 7 = 2 ^ 128 - 1 := by decide +kernel

theorem witness_KdfLoadsKey : ∃ (s : State) (ms : List Move),
    s.keyv = false ∧ s.fatal = false ∧ s.hpend = false ∧ s.moves = .hash (.digest digestK1) :: ms :=
  ⟨{ State.reset with moves := [.hash (.digest digestK1)] }, [], rfl, rfl, rfl, rfl⟩

/-- The first and the last key word of K1. -/
theorem witness_KeyWordsAreDigestHead : (0 < 4 ∧ keyWord digestK1 0 = 0x5E83983B#32) ∧ (3 < 4 ∧ keyWord digestK1 3 = 0xC99A70DA#32) := by
  decide +kernel

theorem witness_HonestHashGivesSecretKey : ∃ (s : State) (d : Digest) (ms : List Move),
    s.keyv = false ∧ s.fatal = false ∧ s.hpend = false ∧ HonestHash s ∧ s.moves = .hash (.digest d) :: ms := by
  refine ⟨{ State.reset with moves := [.hash (.digest (Config.hash256 hreqMsg))] }, _, [], rfl, rfl, rfl, ?_, rfl⟩
  intro d hd
  simpa using hd

theorem witness_KdfUnavailableSetsFatal : ∃ (s : State) (ms : List Move),
    s.keyv = false ∧ s.fatal = false ∧ s.hpend = false ∧ s.moves = .hash .unavailable :: ms :=
  ⟨{ State.reset with moves := [.hash .unavailable] }, [], rfl, rfl, rfl, rfl⟩

theorem witness_KdfHeldOrFatalDoesNothing : keyed.keyv = true ∧ failed.fatal = true := by decide

theorem witness_DerivationSuspends : ∃ s s' : State,
    s.keyv = false ∧ s.fatal = false ∧ s.hpend = false ∧ NoAnswerNext s ∧
    s'.keyv = false ∧ s'.fatal = false ∧ s'.hpend = false ∧ NoAnswerNext s' ∧ s'.moves ≠ [] :=
  ⟨State.reset, { State.reset with moves := [.host, .hash .unavailable] }, rfl, rfl, rfl, (by intro a ms h; cases h), rfl, rfl, rfl,
    (by intro a ms h; cases h), by decide⟩

theorem witness_AnswerEndsSuspendedKdf :
    (∃ (s : State) (ms : List Move), s.hpend = true ∧ s.pendcmd = .kdf ∧ s.moves = .hash (.digest digestK1) :: ms) ∧
    (∃ (s : State) (ms : List Move), s.hpend = true ∧ s.pendcmd = .kdf ∧ s.moves = .hash .unavailable :: ms) :=
  ⟨⟨suspended .kdf [.hash (.digest digestK1)], [], rfl, rfl, rfl⟩, ⟨suspended .kdf [.hash .unavailable], [], rfl, rfl, rfl⟩⟩

theorem witness_AnswerResumesSuspendedDecode :
    (∃ (s : State) (ms : List Move), s.hpend = true ∧ s.pendcmd = .decode ∧ s.moves = .hash (.digest digestK1) :: ms ∧
      (after (step s)).valid = true) ∧
    (∃ (s : State) (ms : List Move), s.hpend = true ∧ s.pendcmd = .decode ∧ s.moves = .hash .unavailable :: ms ∧
      (after (step s)).err = 3#3) :=
  ⟨⟨suspended .decode [.hash (.digest digestK1)], [], rfl, rfl, rfl, by decide +kernel⟩,
   ⟨suspended .decode [.hash .unavailable], [], rfl, rfl, rfl, by decide +kernel⟩⟩

theorem witness_DecodeDerivesKeyFirst :
    (∃ (s : State) (ms : List Move), s.keyv = false ∧ s.fatal = false ∧ s.hpend = false ∧ s.badc = true ∧
      s.moves = .hash (.digest digestK1) :: ms) ∧
    (∃ (s : State) (ms : List Move), s.keyv = false ∧ s.fatal = false ∧ s.hpend = false ∧ s.moves = .hash .unavailable :: ms) :=
  ⟨⟨{ State.reset with badc := true, moves := [.hash (.digest digestK1)] }, [], rfl, rfl, rfl, rfl, rfl⟩,
   ⟨{ State.reset with moves := [.hash .unavailable] }, [], rfl, rfl, rfl, rfl⟩⟩

theorem witness_DecodeDecryptsAndSlices : keyed.keyv = true ∧ keyed.fatal = false ∧ keyed.badc = false ∧ keyed.ovf = false := by
  decide

/-- Each clause, the middle two also with the later condition standing (X3). -/
theorem witness_DecodeFailurePath :
    (∃ s : State, s.fatal = true ∧ s.badc = true) ∧
    (∃ s : State, s.keyv = true ∧ s.fatal = false ∧ s.badc = true ∧ s.ovf = true) ∧
    (∃ s : State, s.keyv = true ∧ s.fatal = false ∧ s.badc = false ∧ s.ovf = true) :=
  ⟨⟨{ failed with badc := true }, rfl, rfl⟩, ⟨{ keyed with badc := true, ovf := true }, rfl, rfl, rfl, rfl⟩,
   ⟨{ keyed with ovf := true }, rfl, rfl, rfl, rfl⟩⟩

theorem witness_DecodeTwiceIsDecodeOnce : ∃ s t s' t' : State,
    s.keyv = true ∧ exec .decode s = .next t ∧ t.valid = true ∧ s'.fatal = true ∧ exec .decode s' = .next t' ∧ t'.err = 3#3 :=
  ⟨keyed, _, failed, _, rfl, exec_eq_next _ _, by decide +kernel, rfl, exec_eq_next _ _, by decide +kernel⟩

theorem witness_EmptyResultReadsZero : ∃ s : State, s.Inv ∧ s.valid = false ∧
    (1 ≤ (1#8).toNat ∧ (1#8).toNat ≤ 7) ∧ (1 ≤ (7#8).toNat ∧ (7#8).toNat ≤ 7) ∧ (12 ≤ (12#8).toNat ∧ (12#8).toNat ≤ 15) ∧
    (12 ≤ (15#8).toNat ∧ (15#8).toNat ≤ 15) :=
  ⟨{ State.reset with err := 1#3, cmds := [], moves := [] }, empty_inv 1#3 (by decide) _ _, rfl, by decide⟩

theorem witness_OneResponsePerRead : ∃ t u : State,
    exec (.rd 0#8) decoded = .next t ∧ t.rsps = [3#32] ∧ exec .start decoded = .next u ∧ u.rsps = [] :=
  ⟨_, _, exec_eq_next _ _, by decide +kernel, exec_eq_next _ _, by decide +kernel⟩

theorem witness_TokenStateKeptByOthers : ∃ t u v w : State,
    exec .kdf decoded = .next t ∧ exec .decode decoded = .next u ∧ exec .nop decoded = .next v ∧ exec (.rd 16#8) decoded = .next w :=
  ⟨_, _, _, _, exec_eq_next _ _, exec_eq_next _ _, exec_eq_next _ _, exec_eq_next _ _⟩

theorem witness_CommandFrames : ∃ t u v w x : State,
    exec .start decoded = .next t ∧ exec (.push 0x61#8) decoded = .next u ∧ exec .kdf State.reset = .next v ∧
    exec .decode decoded = .next w ∧ exec (.rd 15#8) decoded = .next x ∧ (15#8).toNat < 16 :=
  ⟨_, _, _, _, _, exec_eq_next _ _, exec_eq_next _ _, exec_eq_next _ _, exec_eq_next _ _, exec_eq_next _ _, by decide⟩

theorem witness_SettledKeyUnitIsLeftAlone : ∃ t u : State,
    keyed.keyv = true ∧ exec .decode keyed = .next t ∧ failed.fatal = true ∧ exec .kdf failed = .next u :=
  ⟨_, _, rfl, exec_eq_next _ _, rfl, exec_eq_next _ _⟩

theorem witness_ReadsCannotReachKey : ∃ t t' : State,
    exec (.rd 12#8) decoded = .next t ∧
    exec (.rd 12#8) { decoded with k := Words4.zero, hpend := true, pendcmd := .decode, work := CipherRegs.zero } = .next t' ∧
    t.rsps = [0x0002540B#32] :=
  ⟨_, _, exec_eq_next _ _, exec_eq_next _ _, by decide +kernel⟩

/-- Both ends: the key takes no part, and the key is overwritten by the answer. -/
theorem witness_UnheldKeyIsUnobservable : ∃ s t s' t' : State,
    s.keyv = false ∧ step s = .next t ∧ t.keyv = false ∧ s'.keyv = false ∧ step s' = .next t' ∧ t'.keyv = true :=
  ⟨State.reset, _, suspended .kdf [.hash (.digest digestK1)], _, rfl, rfl, rfl, rfl, rfl, by decide +kernel⟩

/-- The first and the last byte, the whole and an empty range, the last word (T17, T12). -/
theorem witness_CiphertextViewIsAccumulator : ctByte accE1 0 = 0x10#8 ∧ ctByte accE1 15 = 0xE0#8 ∧
    memRead accE1 0 16 = accE1.toNat ∧ memRead accE1 16 0 = 0 ∧ memRead accE1 12 4 = 0xA16B9AE0 ∧ ctWord accE1 3 = 0xA16B9AE0#32 := by
  decide +kernel

/-- The ends of the schedule (43_block_cipher.md R143, trace of B2). -/
theorem witness_SumScheduleIsFixed : 0 ≤ 32 ∧ 32 ≤ 32 ∧ (cipherLoad 0#1 0#32 0#32).sum = 0xC6EF3720#32 ∧
    (decryptRounds Words4.zero 32 (cipherLoad 0#1 0x41EA3A0A#32 0x94BAA940#32)).sum = 0#32 := by decide +kernel

/-- E4: equal first halves, different second halves; then equal halves (E7). -/
theorem witness_BlocksDecryptIndependently : ∃ s s' t t' : State,
    s.keyv = true ∧ s'.keyv = true ∧ s.k = s'.k ∧ exec .decode s = .next t ∧ exec .decode s' = .next t' ∧
    t.valid = true ∧ t'.valid = true ∧ s.acc.extractLsb' 64 64 = s'.acc.extractLsb' 64 64 ∧
    s'.acc.extractLsb' 0 64 ≠ s.acc.extractLsb' 0 64 ∧
    (0xE129386AE16A531FE129386AE16A531F#128 : Wide).extractLsb' 64 64 =
      (0xE129386AE16A531FE129386AE16A531F#128 : Wide).extractLsb' 0 64 :=
  ⟨{ keyed with acc := 0xF67525CEABCB59A17A86C8F90158F23B#128 }, { keyed with acc := 0xF67525CEABCB59A17A86C8F90158F23A#128 }, _, _,
    rfl, rfl, rfl, exec_eq_next _ _, exec_eq_next _ _, by decide +kernel, by decide +kernel, by decide, by decide, by decide⟩

/-- S1 with the test key: the accumulator of E1. -/
theorem witness_PackedFieldsAreRecovered : ∃ s : State,
    s.keyv = true ∧ s.fatal = false ∧ s.badc = false ∧ s.ovf = false ∧
    s.acc = (encryptWords (Words4.ofPayload (pack 0#8 9999999999#40 12345#30 54321#30 3#10 7#10)) s.k).payload :=
  ⟨{ keyed with acc := accE1 }, rfl, rfl, rfl, rfl, by decide +kernel⟩

/-- T22 (an invalid character), T17 (fits), T18 (does not fit). -/
theorem witness_StreamedTokenMatchesDecode62 : State.reset.hpend = false ∧
    ((State.reset.pushAll [0x61#8, 0x62#8, 0x2D#8, 0x63#8]).badc = true) ∧
    ((State.reset.pushAll tokT17).badc = false ∧ (State.reset.pushAll tokT17).ovf = false) ∧
    ((State.reset.pushAll (tokT17 ++ [0x62#8])).badc = false ∧ (State.reset.pushAll (tokT17 ++ [0x62#8])).ovf = true) := by
  decide +kernel

/-- E1; the host alone moves. -/
theorem witness_TokenDecodeMatchesSource : KeyHeld testKey keyed ∧ keyed.hpend = false ∧ keyed.moves = [] ∧
    (after (execAll (.start :: tokE1.map .push ++ [.decode]) keyed)).res = resF1 :=
  ⟨⟨rfl, rfl, rfl⟩, rfl, rfl, by decide +kernel⟩

theorem witness_FatalFailsEveryToken : failed.fatal = true ∧ failed.hpend = false := by decide

theorem witness_LeadingZeroSymbolsAreIgnored : decoded.hpend = false := by decide

/-- A token of 21 symbols, and one whose value does not fit. -/
theorem witness_TokenLengthAndValueLimit :
    (∃ ds, tokenDigits (List.replicate 21 0x39#8) = some ds ∧ (List.replicate 21 0x39#8).length ≤ 21) ∧
    (∃ ds, tokenDigits (List.replicate 22 0x39#8) = some ds ∧ digitsValue ds > 2 ^ 128 - 1) :=
  ⟨⟨List.replicate 21 61, by decide, by decide⟩, ⟨List.replicate 22 61, by decide, by decide +kernel⟩⟩

/-- The bounds of the populated codes, a code without an entry, both lenders. -/
theorem witness_NamesAndLender :
    nameOf [(1, "a"), (50, "b"), (51, "c"), (0, "d")] 0 = "Unknown" ∧ nameOf [(1, "a"), (50, "b"), (51, "c")] 51 = "Unknown" ∧
    nameOf [(1, "a"), (50, "b")] 1 = "a" ∧ nameOf [(1, "a"), (50, "b")] 50 = "b" ∧ nameOf [(1, "a")] 2 = "Unknown" ∧
    lenderOf "B" "Unknown" = "B" ∧ lenderOf "B" "N" = "N" := by decide

theorem witness_HostOutcomeFromReads :
    decoded.valid = true ∧ (∃ s : State, s.valid = false ∧ s.err = 1#3) ∧ (∃ s : State, s.valid = false ∧ s.err = 2#3) ∧
    (∃ s : State, s.valid = false ∧ s.err = 3#3) :=
  ⟨rfl, ⟨{ State.reset with err := 1#3 }, rfl, rfl⟩, ⟨{ State.reset with err := 2#3 }, rfl, rfl⟩,
   ⟨{ State.reset with err := 3#3 }, rfl, rfl⟩⟩

end Sys2Proof.Tests
end

section
/-! PROOFS. The family 10_state.md: the values of reset (R39), and the token state `ACC`, `OVF`, `BADC`, which only START and PUSH
write (R28). -/

namespace Sys2Proof.Machine

/-- STATUS of the reset state is zero (10_state.md R37, R39). -/
theorem statusWord_reset : statusWord State.reset = 0x00000000#32 := by decide

/-- Settles O5: each element by its reset law, and STATUS by its value at reset. -/
theorem resetLeavesSpecValues : Obligations.ResetLeavesSpecValues :=
  ⟨State.reset_keyv, State.reset_fatal, State.reset_hpend, State.reset_pendcmd, State.reset_acc, State.reset_ovf, State.reset_badc,
    State.reset_res, State.reset_valid, State.reset_err, State.reset_cmderr, statusWord_reset⟩

/-- From `s` to `t` the token state is unchanged (10_state.md R28). -/
def State.TokenKept (s t : State) : Prop := t.acc = s.acc ∧ t.ovf = s.ovf ∧ t.badc = s.badc

theorem State.TokenKept.refl (s : State) : s.TokenKept s := ⟨rfl, rfl, rfl⟩

theorem State.decodeStages_tokenKept (s : State) : s.TokenKept s.decodeStages :=
  ⟨s.decodeStages_acc, s.decodeStages_ovf, s.decodeStages_badc⟩

theorem State.answerHash_tokenKept (a : HashAnswer) (s : State) : s.TokenKept (s.answerHash a) :=
  ⟨s.answerHash_acc a, s.answerHash_ovf a, s.answerHash_badc a⟩

theorem State.keyDerive_tokenKept (p : PendCmd) (s : State) : s.TokenKept (s.keyDerive p) :=
  ⟨s.keyDerive_acc p, s.keyDerive_ovf p, s.keyDerive_badc p⟩

theorem execTo_kdf_tokenKept (s : State) : s.TokenKept (execTo .kdf s) := by
  simp only [execTo]
  split
  · exact .refl s
  · exact s.keyDerive_tokenKept .kdf

theorem execTo_decode_tokenKept (s : State) : s.TokenKept (execTo .decode s) := by
  simp only [execTo]
  split
  · exact s.decodeStages_tokenKept
  · exact s.keyDerive_tokenKept .decode

/-- Also for a select 16 to 255, which acts as the reserved RD word. -/
theorem execTo_rd_tokenKept (sel : Byte) (s : State) : s.TokenKept (execTo (.rd sel) s) := by
  simp only [execTo]
  split
  · exact ⟨s.respond_acc _, s.respond_ovf _, s.respond_badc _⟩
  · exact ⟨s.reservedRdWord_acc, s.reservedRdWord_ovf, s.reservedRdWord_badc⟩

/-- Settles O41: the end state of each of the four commands is `execTo`'s, which keeps the token state; so does the
answer that ends a suspension. -/
theorem tokenStateKeptByOthers : Obligations.TokenStateKeptByOthers := by
  refine ⟨fun i s t hi h => ?_, State.answerHash_tokenKept⟩
  obtain rfl : execTo i s = t := by simpa only [exec_eq_next, Host.Outcome.next.injEq] using h
  change s.TokenKept (execTo i s)
  rcases hi with rfl | rfl | rfl | ⟨sel, rfl⟩
  · exact execTo_kdf_tokenKept s
  · exact execTo_decode_tokenKept s
  · exact .refl s
  · exact execTo_rd_tokenKept sel s

end Sys2Proof.Machine
end

section
/-! PROOFS. The family 20_memory.md: the ciphertext view (R52), the words RD can read (R61), and the response port (R63). -/

namespace Sys2Proof.Machine

/-! The ciphertext view -/

/-- A slice of `m` bits and the eight bits below it are a slice of `m + 8` bits. -/
theorem slice_append_byte (x e m : Nat) :
    x / 2 ^ (e + 8) % 2 ^ m * 256 + x / 2 ^ e % 256 = x / 2 ^ e % 2 ^ (m + 8) := by
  rw [show 256 = 2 ^ 8 from rfl, pow_add, pow_add, ← Nat.div_div_eq_div_mul, Nat.mul_comm (2 ^ m), Nat.mod_mul, Nat.mul_comm,
    Nat.add_comm]

/-- `MemRead` of any range is one slice of the accumulator, as a number (R52). -/
theorem memRead_eq_slice (acc : Wide) {a n : Nat} (h : a + n ≤ 16) :
    memRead acc a n = acc.toNat / 2 ^ (8 * (16 - a - n)) % 2 ^ (8 * n) := by
  induction n with
  | zero => simp [memRead, Nat.mod_one]
  | succ n ih =>
    have hbyte : 120 - 8 * (a + n) = 8 * (16 - a - (n + 1)) := by omega
    have hbefore : 8 * (16 - a - n) = 8 * (16 - a - (n + 1)) + 8 := by omega
    rw [memRead, ih (by omega), ctByte_toNat, hbyte, hbefore, slice_append_byte, Nat.mul_succ]

/-- `MemRead(4j, 4) = ACC[127 − 32j : 96 − 32j]` (R52). -/
theorem ctWord_eq_slice (acc : Wide) {j : Nat} (h : j < 4) : ctWord acc j = acc.extractLsb' (96 - 32 * j) 32 := by
  have hoffset : 8 * (16 - 4 * j - 4) = 96 - 32 * j := by omega
  apply BitVec.eq_of_toNat_eq
  rw [ctWord, memRead_eq_slice acc (by omega), hoffset, BitVec.toNat_ofNat, Nat.mod_mod, BitVec.extractLsb'_toNat,
    Nat.shiftRight_eq_div_pow]

/-- Settles O46: the bytes are the view's own, a range is the induction of `memRead_eq_slice` over its length, and a word is the
range of four bytes. -/
theorem ciphertextViewIsAccumulator : Obligations.CiphertextViewIsAccumulator := fun acc =>
  ⟨fun i _ => ctByte_toNat acc i, fun _ _ => memRead_eq_slice acc, fun _ => ctWord_eq_slice acc⟩

/-! RD -/

/-- RD of the select of `r` delivers the word of `r` and changes nothing else (R61). -/
theorem exec_rd_number {s : State} (r : Select) {w : Word} (h : selectWord s r = w) :
    exec (.rd r.number) s = .next { s with rsps := s.rsps ++ [w] } := by
  rw [exec_eq_next, ← h]
  exact congrArg _ (execTo_rdSelect r s)

/-- Opcode 0x05 with a select 16 to 255 is no command, but a reserved RD word (30_encoding.md R86). -/
theorem decode_rd_of_reserved_select {sel : Byte} (h : 16 ≤ sel.toNat) : decode (0x05#8 ++ sel) = .reservedRd := by
  obtain ⟨hop, harg⟩ := Laws.EncodingFields.fields_of_append 0x05#8 sel
  have hsel : ¬ sel.toNat < 16 := by omega
  simp [decode, hop, harg, hsel]

/-- Settles O37: each select is the number of one word of R61, where the ciphertext words are slices of `ACC`; a reserved select has
the effect of the reserved RD word. -/
theorem readDeliversSelectedWord : Obligations.ReadDeliversSelectedWord := fun s =>
  ⟨exec_rd_number .status rfl, exec_rd_number .phoneHi rfl, exec_rd_number .phoneLo rfl, exec_rd_number .settle rfl,
    exec_rd_number .pending rfl, exec_rd_number .bank rfl, exec_rd_number .nbfc rfl, exec_rd_number .pad rfl,
    exec_rd_number .ct0 (ctWord_eq_slice s.acc (by decide)), exec_rd_number .ct1 (ctWord_eq_slice s.acc (by decide)),
    exec_rd_number .ct2 (ctWord_eq_slice s.acc (by decide)), exec_rd_number .ct3 (ctWord_eq_slice s.acc (by decide)),
    exec_rd_number .pt0 rfl, exec_rd_number .pt1 rfl, exec_rd_number .pt2 rfl, exec_rd_number .pt3 rfl,
    fun sel h => by rw [issueWord_eq, decode_rd_of_reserved_select h]; rfl⟩

/-! The response port -/

/-- RD delivers one word, also for a select 16 to 255 (R63). -/
theorem execTo_rd_rsps (sel : Byte) (s : State) : ∃ w, (execTo (.rd sel) s).rsps = s.rsps ++ [w] := by
  simp only [execTo]
  split
  · exact ⟨_, s.respond_rsps _⟩
  · exact ⟨_, s.reservedRdWord_rsps⟩

/-- A command other than RD delivers no word, whether it completes, suspends or fails (R63). -/
theorem execTo_rsps_of_not_rd {i : Instr} (h : ∀ sel, i ≠ .rd sel) (s : State) : (execTo i s).rsps = s.rsps := by
  cases i with
  | nop => rfl
  | start => exact s.clearToken_rsps
  | push c => exact s.pushChar_rsps c
  | kdf =>
    simp only [execTo]
    split
    · rfl
    · exact s.keyDerive_rsps .kdf
  | decode =>
    simp only [execTo]
    split
    · exact s.decodeStages_rsps
    · exact s.keyDerive_rsps .decode
  | rd sel => exact absurd rfl (h sel)

/-- Settles O40: the end state of a command is `execTo`'s, with one more response for RD and the same responses otherwise; the answer
that ends a suspension delivers none. -/
theorem oneResponsePerRead : Obligations.OneResponsePerRead := by
  refine ⟨fun i s t h => ?_, State.answerHash_rsps⟩
  obtain rfl : execTo i s = t := by simpa only [exec_eq_next, Host.Outcome.next.injEq] using h
  refine ⟨?_, fun hi => execTo_rsps_of_not_rd hi s⟩
  rintro sel rfl
  exact execTo_rd_rsps sel s

end Sys2Proof.Machine
end

section
/-! PROOFS. The family 30_encoding.md: decoding by the two fields of a word (R83), the match and mask columns (R82), the reserved
words (R86) and their effect (R87). -/

namespace Sys2Proof

/-! The fields of a word -/

/-- A word is its opcode and its argument, in this order (R80). -/
theorem eq_append_iff_fields {w : CmdWord} {op arg : Byte} : w = op ++ arg ↔ opField w = op ∧ argField w = arg := by
  constructor
  · rintro rfl
    exact Laws.EncodingFields.fields_of_append op arg
  · rintro ⟨rfl, rfl⟩
    exact (BitVec.extractLsb'_append_extractLsb' (len := 8)).symm

/-- A mask that keeps the whole opcode acts on the argument alone. -/
theorem masked_eq_append_iff_fields {w : CmdWord} {m op arg : Byte} :
    w &&& (0xFF#8 ++ m) = op ++ arg ↔ opField w = op ∧ argField w &&& m = arg := by
  obtain ⟨hop, harg⟩ := Laws.EncodingFields.fields_of_append 0xFF#8 m
  have hkeep : opField (w &&& (0xFF#8 ++ m)) = opField w := by
    rw [opField, BitVec.extractLsb'_and, ← opField, ← opField, hop]
    exact BitVec.and_allOnes
  have hmask : argField (w &&& (0xFF#8 ++ m)) = argField w &&& m := by
    rw [argField, BitVec.extractLsb'_and, ← argField, ← argField, harg]
  rw [eq_append_iff_fields, hkeep, hmask]

/-- The mask 0xFF00 compares nothing of the argument. -/
theorem mask_FF00_iff_opcode {w : CmdWord} {op : Byte} : w &&& 0xFF00#16 = op ++ 0#8 ↔ opField w = op :=
  (masked_eq_append_iff_fields (m := 0x00#8)).trans (and_iff_left BitVec.and_zero)

/-- The mask 0xFFF0 leaves room for the arguments below 16. -/
theorem mask_FFF0_iff_fields {w : CmdWord} {op : Byte} :
    w &&& 0xFFF0#16 = op ++ 0#8 ↔ opField w = op ∧ (argField w).toNat < 16 := by
  have table : ∀ b : Byte, b &&& 0xF0#8 = 0#8 ↔ b.toNat < 16 := by decide +kernel
  rw [← table]
  exact masked_eq_append_iff_fields (m := 0xF0#8)

/-! Decoding by the fields -/

/-- The opcodes of the commands without an argument, of PUSH, of RD, and of no command (R82). -/
theorem opcode_cases (op : Byte) :
    (op = 0x00#8 ∨ op = 0x01#8 ∨ op = 0x03#8 ∨ op = 0x04#8) ∨ op = 0x02#8 ∨ op = 0x05#8 ∨ 6 ≤ op.toNat := by
  bv_omega

/-- A word decodes to a command exactly if its fields are the command's and the argument is in the command's range (R83). -/
theorem decode_eq_command_iff {w : CmdWord} {i : Instr} :
    decode w = .command i ↔ opField w = i.opcode ∧ argField w = i.argument ∧ i.wellFormed = true := by
  constructor
  · intro h
    unfold decode at h
    split_ifs at h with hnop hstart hpush hkdf hdecode hrd <;> cases h
    · exact ⟨hnop.1, hnop.2, rfl⟩
    · exact ⟨hstart.1, hstart.2, rfl⟩
    · exact ⟨hpush, rfl, rfl⟩
    · exact ⟨hkdf.1, hkdf.2, rfl⟩
    · exact ⟨hdecode.1, hdecode.2, rfl⟩
    · exact ⟨hrd.1, rfl, decide_eq_true hrd.2⟩
  · rintro ⟨hop, harg, hi⟩
    cases i with
    | rd sel =>
      have hsel : sel.toNat < 16 := of_decide_eq_true hi
      simp [decode, hop, harg, Instr.opcode, Instr.argument, hsel]
    | _ => simp [decode, hop, harg, Instr.opcode, Instr.argument]

/-- The class (b) of R86. -/
theorem decode_eq_reservedRd_iff {w : CmdWord} : decode w = .reservedRd ↔ opField w = 0x05#8 ∧ 16 ≤ (argField w).toNat := by
  constructor
  · intro h
    unfold decode at h
    split_ifs at h with _ _ _ _ _ hrd hop
    exact ⟨hop, not_lt.1 fun harg => hrd ⟨hop, harg⟩⟩
  · rintro ⟨hop, harg⟩
    rw [eq_append_iff_fields.2 ⟨hop, rfl⟩]
    exact Machine.decode_rd_of_reserved_select harg

/-- The classes (a) and (c) of R86. -/
theorem decode_eq_reserved_iff {w : CmdWord} : decode w = .reserved ↔
    ((opField w = 0x00#8 ∨ opField w = 0x01#8 ∨ opField w = 0x03#8 ∨ opField w = 0x04#8) ∧ argField w ≠ 0#8) ∨
      6 ≤ (opField w).toNat := by
  rcases opcode_cases (opField w) with hbare | hpush | hrd | hnone
  · rcases hbare with hop | hop | hop | hop <;> simp [decode, hop]
  · simp [decode, hpush]
  · by_cases harg : (argField w).toNat < 16 <;> simp [decode, hrd, harg]
  · have hrow : ∀ op : Byte, op.toNat < 6 → opField w ≠ op := by rintro op hlt rfl; omega
    simp [decode, hrow, hnone]

/-- Settles O3: each class by its own lemma. -/
theorem reservedWordsAreThese : Obligations.ReservedWordsAreThese := fun _ =>
  ⟨decode_eq_reserved_iff, decode_eq_reservedRd_iff⟩

/-- The mask 0xFFFF compares the whole word with the command's. -/
theorem decode_eq_command_iff_masked {w : CmdWord} {i : Instr} (hi : i.wellFormed = true) :
    decode w = .command i ↔ w &&& 0xFFFF#16 = encode i := by
  have hw : w &&& 0xFFFF#16 = w := BitVec.and_allOnes
  rw [hw, encode, eq_append_iff_fields, decode_eq_command_iff, and_iff_left hi]

/-- Some PUSH is decoded exactly if the opcode is PUSH's. -/
theorem exists_decode_eq_push_iff {w : CmdWord} : (∃ c, decode w = .command (.push c)) ↔ opField w = 0x02#8 := by
  simp [decode_eq_command_iff, Instr.opcode, Instr.argument, Instr.wellFormed]

/-- Some RD is decoded exactly if the opcode is RD's and the argument is a select. -/
theorem exists_decode_eq_rd_iff {w : CmdWord} :
    (∃ sel, decode w = .command (.rd sel)) ↔ opField w = 0x05#8 ∧ (argField w).toNat < 16 := by
  simp [decode_eq_command_iff, Instr.opcode, Instr.argument, Instr.wellFormed]

/-- Settles O4: a row's mask compares the opcode and as much of the argument as the decoder does. -/
theorem matchAndMaskSelectTheCommand : Obligations.MatchAndMaskSelectTheCommand := fun _ =>
  ⟨decode_eq_command_iff_masked rfl, decode_eq_command_iff_masked rfl, exists_decode_eq_push_iff.trans mask_FF00_iff_opcode.symm,
    decode_eq_command_iff_masked rfl, decode_eq_command_iff_masked rfl, exists_decode_eq_rd_iff.trans mask_FFF0_iff_fields.symm⟩

end Sys2Proof

namespace Sys2Proof.Machine

/-- A ready block takes the host's next word. -/
theorem hostMove_of_word {s : State} {w : CmdWord} {rest : List CmdWord} (hp : s.hpend = false) (hc : s.cmds = w :: rest) :
    hostMove s = issueWord w { s with cmds := rest } := by
  simp [hostMove, State.cmdReady, hp, hc]

/-- The step in which the host moves is the host's move, once the move is used up. -/
theorem step_of_hostMovesNext {s : State} {ms : List Move} (hn : HostMovesNext s ms) :
    step s = hostMove { s with moves := ms } := by
  rcases hn with ⟨hm, rfl⟩ | hm
  · rw [step_of_no_move hm, ← hm]
  · exact step_of_move hm

/-- The step in which the host moves and the block is ready issues the host's next word (R58, R62). -/
theorem step_issues_word {s : State} {ms : List Move} {w : CmdWord} {rest : List CmdWord} (hp : s.hpend = false)
    (hn : HostMovesNext s ms) (hc : s.cmds = w :: rest) : step s = issueWord w { s with cmds := rest, moves := ms } :=
  (step_of_hostMovesNext hn).trans (hostMove_of_word hp hc)

/-- Settles O10: the step issues the word, and its decoding says which of the two effects it has. -/
theorem reservedWordSetsCmdErrOnly : Obligations.ReservedWordSetsCmdErrOnly := by
  intro s ms w rest hp hn hc
  rw [step_issues_word hp hn hc, issueWord_eq]
  constructor <;> intro hd <;> rw [hd] <;> rfl

end Sys2Proof.Machine
end

section
/-! PROOFS. The family 42_base62_transcoder.md: the digits (R121), START (R122), PUSH (R123), the streamed token (R125) and the limit
of its value (R127). -/

namespace Sys2Proof.Machine

/-! PUSH, one character after another -/

/-- `ACC` after a digit, as a number (R123). -/
theorem State.appendDigit_acc_toNat (d : Nat) (s : State) :
    (s.appendDigit d).acc.toNat = (s.acc.toNat * 62 + d) % 2 ^ 128 := BitVec.toNat_ofNat ..

/-- `OVF` after a digit (R123). -/
theorem State.appendDigit_ovf_iff (d : Nat) (s : State) :
    (s.appendDigit d).ovf = true ↔ s.ovf = true ∨ 2 ^ 128 ≤ s.acc.toNat * 62 + d := by
  simp only [State.appendDigit, overflows, Bool.or_eq_true, decide_eq_true_eq, ge_iff_le, Config.tokenBound, Config.radix]

/-- Pushing a string of digits accumulates it after what `ACC` held, modulo 2^128, and `OVF` records that the unbounded value
reached 2^128: once the running value is that large, no later digit makes it smaller (R125 (b)). -/
theorem State.pushAll_digits {tok : List Byte} {ds : List Nat} (h : tokenDigits tok = some ds) (s : State) :
    (s.pushAll tok).acc.toNat = (s.acc.toNat * 62 ^ ds.length + digitsValue ds) % 2 ^ 128 ∧
    ((s.pushAll tok).ovf = true ↔ s.ovf = true ∨ 2 ^ 128 ≤ s.acc.toNat * 62 ^ ds.length + digitsValue ds) := by
  induction tok generalizing ds s with
  | nil =>
    obtain rfl : [] = ds := Option.some.inj h
    have hfits : s.acc.toNat < 2 ^ 128 := s.acc.isLt
    simp only [State.pushAll, digitsValue, List.length_nil, pow_zero, Nat.mul_one, Nat.add_zero]
    exact ⟨(Nat.mod_eq_of_lt hfits).symm, (or_iff_left (Nat.not_le.2 hfits)).symm⟩
  | cons c cs ih =>
    obtain ⟨d, es, hd, hes, rfl⟩ := tokenDigits_cons h
    obtain ⟨hacc, hovf⟩ := ih hes (s.appendDigit d)
    have hvalue : s.acc.toNat * 62 ^ (d :: es).length + digitsValue (d :: es) =
        (s.acc.toNat * 62 + d) * 62 ^ es.length + digitsValue es := by
      simp only [digitsValue, Config.radix, List.length_cons, pow_succ]
      ring
    have hgrows : s.acc.toNat * 62 + d ≤ (s.acc.toNat * 62 + d) * 62 ^ es.length := Nat.le_mul_of_pos_right _ (by positivity)
    rw [State.pushAll, State.pushChar_of_digit hd, hvalue]
    constructor
    · rw [hacc, State.appendDigit_acc_toNat]
      simp [Nat.add_mod, Nat.mul_mod]
    · rw [hovf, State.appendDigit_ovf_iff, State.appendDigit_acc_toNat]
      by_cases hbig : 2 ^ 128 ≤ s.acc.toNat * 62 + d
      · have hstays : 2 ^ 128 ≤ (s.acc.toNat * 62 + d) * 62 ^ es.length + digitsValue es := by omega
        simp only [hbig, hstays, or_true, true_or]
      · rw [Nat.mod_eq_of_lt (Nat.not_le.1 hbig)]
        simp only [hbig, or_false]

/-- After START, a string of digits leaves its own value (R125 (b), (c)). -/
theorem State.pushAll_clearToken {tok : List Byte} {ds : List Nat} (h : tokenDigits tok = some ds) (s : State) :
    (s.clearToken.pushAll tok).acc.toNat = digitsValue ds % 2 ^ 128 ∧
    ((s.clearToken.pushAll tok).ovf = true ↔ 2 ^ 128 ≤ digitsValue ds) := by
  simpa using State.pushAll_digits h s.clearToken

/-- Settles O54: START and the PUSH commands run to `pushAll` of the cleared state, whose `BADC` is `pushAll_badc`'s, and whose `ACC`
and `OVF`, where the token has digits, are `pushAll_clearToken`'s. -/
theorem streamedTokenMatchesDecode62 : Obligations.StreamedTokenMatchesDecode62 := by
  intro tok s hready
  have hbad : (s.clearToken.pushAll tok).badc = true ↔ ∃ c ∈ tok, digit c = none := by simp [State.pushAll_badc]
  refine ⟨s.clearToken.pushAll tok, (execAll_cons hready _ _).trans (execAll_map_push tok hready), hbad, fun hbadc => ?_⟩
  have hdigits : tokenDigits tok ≠ none := fun hnone =>
    Bool.false_ne_true (hbadc.symm.trans (hbad.2 ((tokenDigits_eq_none tok).1 hnone)))
  obtain ⟨ds, hds⟩ := Option.ne_none_iff_exists'.1 hdigits
  obtain ⟨hacc, hovf⟩ := State.pushAll_clearToken hds s
  refine ⟨ds, hds, hovf, fun hfits => ?_⟩
  have hvalue : (s.clearToken.pushAll tok).acc.toNat = digitsValue ds :=
    hacc.trans (Nat.mod_eq_of_lt (by simpa [hfits] using hovf))
  refine ⟨hvalue, fun i hi => ?_⟩
  have hoffset : 120 - 8 * i = 8 * (15 - i) := by omega
  rw [ctByte_toNat, hvalue, hoffset]

/-! The value of a token and its limit -/

/-- `Decode62` of a token whose characters all have digits (R124). -/
theorem decode62_of_digits {tok : List Byte} {ds : List Nat} (h : tokenDigits tok = some ds) :
    decode62 tok = if 2 ^ 128 ≤ digitsValue ds then .error .tokenTooLong else .ok (BitVec.ofNat 128 (digitsValue ds)) := by
  simp only [decode62, h]

/-- A token of digits is too long exactly if its value is (R127). -/
theorem decode62_eq_tokenTooLong_iff {tok : List Byte} {ds : List Nat} (h : tokenDigits tok = some ds) :
    decode62 tok = .error .tokenTooLong ↔ 2 ^ 128 ≤ digitsValue ds := by
  rw [decode62_of_digits h]
  by_cases hbig : 2 ^ 128 ≤ digitsValue ds
  · exact iff_of_true (if_pos hbig) hbig
  · exact iff_of_false (by rw [if_neg hbig]; nofun) hbig

/-- At most 21 digits fit, because 62^21 < 2^128 (R127). -/
theorem digitsValue_lt_of_length_le {tok : List Byte} {ds : List Nat} (h : tokenDigits tok = some ds) (hlen : tok.length ≤ 21) :
    digitsValue ds < 2 ^ 128 :=
  calc digitsValue ds < 62 ^ ds.length := digitsValue_lt h
    _ ≤ 62 ^ 21 := Nat.pow_le_pow_right (by decide) (tokenDigits_length h ▸ hlen)
    _ < 2 ^ 128 := by decide

/-- A leading `a` is a leading zero digit (R127). -/
theorem decode62_cons_a (tok : List Byte) : decode62 (0x61#8 :: tok) = decode62 tok := by
  have ha : digit 0x61#8 = some 0 := by decide
  cases h : tokenDigits tok with
  | none => simp only [decode62, tokenDigits, ha, h]
  | some ds => simp only [decode62, tokenDigits, ha, h, digitsValue, Nat.zero_mul, Nat.zero_add]

theorem decode62_replicate_a (n : Nat) (tok : List Byte) : decode62 (List.replicate n 0x61#8 ++ tok) = decode62 tok := by
  induction n with
  | zero => rfl
  | succ n ih => rw [List.replicate_succ, List.cons_append, decode62_cons_a, ih]

/-- Settles O57: the limits are numbers, the condition is `decode62_of_digits`, and leading `a` symbols fall away one by one. -/
theorem tokenLengthAndValueLimit : Obligations.TokenLengthAndValueLimit := by
  refine ⟨by decide, fun tok ds hds => ⟨fun hlen => ?_, ?_⟩, by decide +kernel, by decide +kernel, decode62_replicate_a, ?_⟩
  · have hfits := digitsValue_lt_of_length_le hds hlen
    exact ⟨_, (decode62_of_digits hds).trans (if_neg (Nat.not_le.2 hfits))⟩
  · exact (decode62_eq_tokenTooLong_iff hds).trans Nat.lt_iff_add_one_le.symm
  · exact (decode62_replicate_a 30 _).trans (by decide)

/-! START -/

/-- START leaves a clean token (R122, 70_reset_and_hazards.md R261). -/
theorem State.clearToken_cleanToken (s : State) : CleanToken s.clearToken := ⟨rfl, rfl, rfl, rfl, rfl, rfl⟩

/-- START changes nothing of a clean token. -/
theorem CleanToken.clearToken_eq {s : State} (h : CleanToken s) : s.clearToken = s := by
  cases s
  obtain ⟨rfl, rfl, rfl, rfl, rfl, rfl⟩ := h
  rfl

theorem exec_start_of_clean {s : State} (h : CleanToken s) : exec .start s = .next s :=
  congrArg Host.Outcome.next h.clearToken_eq

/-- Reset leaves a clean token. -/
theorem AfterReset.cleanToken {s : State} (h : AfterReset s) : CleanToken s := by
  rw [show s = _ from h]
  exact ⟨rfl, rfl, rfl, rfl, rfl, rfl⟩

/-- Once `FATAL` is set DECODE asks for no key and reports code 3 (60_exceptions.md R226). -/
theorem execTo_decode_of_fatal {s : State} (h : s.fatal = true) : execTo .decode s = s.raise .environmentUnavailable := by
  simp [execTo, State.decodeStages, h]

/-- Of STATUS, START keeps `CMDERR`, `FATAL` and `KEYV` (R122, 10_state.md R37). -/
theorem statusWord_clearToken (s : State) : statusWord s.clearToken = statusWord s &&& 0x821#32 := by
  have hmask : 0x821#32 =
      0#20 ++ 1#1 ++ 0#1 ++ 0#1 ++ 0#1 ++ 0#1 ++ 0#1 ++ 1#1 ++ 0#3 ++ 0#1 ++ 1#1 := by decide
  have hkeep : ∀ b, BitVec.ofBool b &&& 1#1 = BitVec.ofBool b := fun _ => BitVec.and_allOnes
  rw [hmask, statusWord, statusWord]
  iterate 10 rw [BitVec.and_append]
  simp [Results.empty, hkeep]

/-- Settles O22: START is `clearToken`, which leaves a clean token and changes nothing of one; `FATAL` stays, and STATUS is
masked. -/
theorem startClearsToken : Obligations.StartClearsToken := by
  refine ⟨decode_eq_command_iff.2 (by decide), fun _ => rfl, fun _ h => ⟨h.cleanToken, exec_start_of_clean h.cleanToken⟩, ?_, ?_,
    fun s h => ?_⟩
  · rintro s _ ⟨⟩
    exact exec_start_of_clean s.clearToken_cleanToken
  · rintro s _ hf ⟨⟩
    exact ⟨_, (exec_eq_next .decode _).trans (congrArg _ (execTo_decode_of_fatal hf)), hf, rfl⟩
  · exact ⟨_, rfl, by rw [statusWord_clearToken, h]; decide⟩

/-! Digits -/

/-- The symbol at the position of a code's digit is that code (R121). -/
theorem alphabet_of_digit {c : Byte} {d : Nat} (h : digit c = some d) : Config.alphabet[d]? = some c := by
  have table : ∀ b : Byte, ∀ e ∈ digit b, Config.alphabet[e]? = some b := by decide +kernel
  exact table c d h

/-- The digit of a symbol of the alphabet is its position (R121). -/
theorem digit_of_alphabet {c : Byte} {d : Nat} (h : Config.alphabet[d]? = some c) : digit c = some d := by
  have table : ∀ i : Fin Config.alphabet.length, digit Config.alphabet[i] = some i.val := by decide +kernel
  obtain ⟨hd, rfl⟩ := List.getElem?_eq_some_iff.1 h
  exact table ⟨d, hd⟩

/-- Settles O23: the ranges exclude each other, so the order of `digit`'s tests does not matter; the codes outside are counted;
`digit` and the alphabet are inverse to each other. -/
theorem digitOfCharacterCode : Obligations.DigitOfCharacterCode := by
  refine ⟨fun c => ⟨fun hlower => ?_, fun hupper => ?_, fun hnumeral => ?_, fun ⟨hlower, hupper, hnumeral⟩ => ?_⟩,
    by decide +kernel, fun _ _ => ⟨alphabet_of_digit, digit_of_alphabet⟩⟩
  · rw [digit, if_pos hlower]
  · rw [digit, if_neg (by omega), if_pos hupper]
  · rw [digit, if_neg (by omega), if_neg (by omega), if_pos hnumeral]
  · rw [digit, if_neg hlower, if_neg hupper, if_neg hnumeral]

/-! PUSH -/

/-- The word of PUSH is 0x0200 + c: the sum has no carry into the opcode (R123). -/
theorem encode_push_eq_add (c : Byte) : encode (.push c) = 0x0200#16 + c.zeroExtend 16 := by
  apply BitVec.eq_of_toNat_eq
  rw [encode, toNat_append_mul]
  simp only [Instr.opcode, Instr.argument]
  bv_omega

/-- Taking the value modulo 2^128 first, as R123 writes it, stores the same number. -/
theorem State.appendDigit_eq (d : Nat) (s : State) : s.appendDigit d =
    { s with acc := BitVec.ofNat 128 ((s.acc.toNat * 62 + d) % 2 ^ 128)
             ovf := s.ovf || decide (s.acc.toNat * 62 + d ≥ 2 ^ 128) } := by
  have hmod (t : Nat) : BitVec.ofNat 128 (t % 2 ^ 128) = BitVec.ofNat 128 t :=
    BitVec.eq_of_toNat_eq (by rw [BitVec.toNat_ofNat, BitVec.toNat_ofNat, Nat.mod_mod])
  rw [hmod]
  rfl

/-- Settles O24: the word is the encoded command, and PUSH is `pushChar`, by its two cases. -/
theorem pushAppendsDigit : Obligations.PushAppendsDigit := by
  refine fun c s => ⟨?_, fun hd => ?_, fun d hd => ?_⟩
  · rw [← encode_push_eq_add, decode_eq_command_iff]
    exact ⟨(Laws.EncodingFields.push c).1, (Laws.EncodingFields.push c).2, rfl⟩
  · exact congrArg _ (State.pushChar_of_none hd s)
  · exact congrArg _ ((State.pushChar_of_digit hd s).trans (s.appendDigit_eq d))

end Sys2Proof.Machine
end

section
/-! PROOFS. The family 43_block_cipher.md: the schedule of the rounds (R143), the two blocks of a DECODE (R144, R145), and
EncryptBlock as the inverse of DecryptBlock (R147). -/

namespace Sys2Proof.Machine

/-! `cipherLoad` -/

@[simp] theorem cipherLoad_v0 (blk : BitVec 1) (v0 v1 : Word) : (cipherLoad blk v0 v1).v0 = v0 := rfl
@[simp] theorem cipherLoad_v1 (blk : BitVec 1) (v0 v1 : Word) : (cipherLoad blk v0 v1).v1 = v1 := rfl
@[simp] theorem cipherLoad_rnd (blk : BitVec 1) (v0 v1 : Word) : (cipherLoad blk v0 v1).rnd = 0#6 := rfl

/-- The first round constant, `DELTA * 32` modulo 2^32 (R141, R143). -/
theorem cipherLoad_sum (blk : BitVec 1) (v0 v1 : Word) :
    (cipherLoad blk v0 v1).sum = BitVec.ofNat 32 (0x9E3779B9 * 32) := by
  rw [BitVec.ofNat_mul]
  rfl

/-! The schedule -/

/-- Each decryption round takes `DELTA` off the round constant, whatever the data and the key (R143). -/
theorem decryptRounds_sum (key : Words4) (n : Nat) (r : CipherRegs) :
    (decryptRounds key n r).sum = r.sum - BitVec.ofNat 32 (0x9E3779B9 * n) := by
  induction n with
  | zero => simp
  | succ n ih =>
    rw [decryptRounds_succ', decryptRound_sum, ih, Nat.mul_succ, BitVec.ofNat_add, ← sub_sub]

/-- Each encryption round adds it back. -/
theorem encryptRounds_sum (key : Words4) (n : Nat) (r : CipherRegs) :
    (encryptRounds key n r).sum = r.sum + BitVec.ofNat 32 (0x9E3779B9 * n) := by
  induction n with
  | zero => simp
  | succ n ih =>
    rw [encryptRounds_succ', encryptRound_sum, ih, Nat.mul_succ, BitVec.ofNat_add, BitVec.add_assoc]

/-- `RND` counts the rounds, modulo its width (10_state.md R29). -/
theorem decryptRounds_rnd (key : Words4) (n : Nat) (r : CipherRegs) :
    (decryptRounds key n r).rnd = r.rnd + BitVec.ofNat 6 n := by
  induction n with
  | zero => simp
  | succ n ih => rw [decryptRounds_succ', decryptRound_rnd, ih, BitVec.ofNat_add, BitVec.add_assoc]

/-- Settles O48: from `DELTA * 32` the rounds take `DELTA * r`, and from 0 they count `r`. -/
theorem sumScheduleIsFixed : Obligations.SumScheduleIsFixed := by
  intro key blk v0 v1 r hr
  have hsplit : 0x9E3779B9 * 32 = 0x9E3779B9 * (32 - r) + 0x9E3779B9 * r := by omega
  have hload : (cipherLoad blk v0 v1).sum =
      BitVec.ofNat 32 (0x9E3779B9 * (32 - r)) + BitVec.ofNat 32 (0x9E3779B9 * r) := by
    rw [cipherLoad_sum, hsplit, BitVec.ofNat_add]
  constructor
  · rw [decryptRounds_sum, hload, BitVec.add_sub_cancel]
  · rw [decryptRounds_rnd, cipherLoad_rnd, BitVec.zero_add, BitVec.toNat_ofNat]
    omega

/-! The inverse -/

/-- The rounds of a decryption undo as many rounds of an encryption, the last one first (R147). -/
theorem decryptRounds_encryptRounds (key : Words4) (n : Nat) (r : CipherRegs) :
    decryptRounds key n (encryptRounds key n r) = r := by
  induction n with
  | zero => rfl
  | succ n ih => rw [encryptRounds_succ', decryptRounds_succ, decryptRound_encryptRound, ih]

/-- The rounds of an encryption undo as many rounds of a decryption. -/
theorem encryptRounds_decryptRounds (key : Words4) (n : Nat) (r : CipherRegs) :
    encryptRounds key n (decryptRounds key n r) = r := by
  induction n with
  | zero => rfl
  | succ n ih => rw [decryptRounds_succ', encryptRounds_succ, encryptRound_decryptRound, ih]

/-- DecryptBlock of the halves of any registers that hold its first round constant: `RND` and `BLK` do not matter (R141). -/
theorem decryptBlock_halves (key : Words4) {r : CipherRegs} (h : r.sum = BitVec.ofNat 32 (0x9E3779B9 * 32)) :
    decryptBlock r.v0 r.v1 key =
      ((decryptRounds key Config.rounds r).v0, (decryptRounds key Config.rounds r).v1) := by
  have hsum : (cipherLoad 0#1 r.v0 r.v1).sum = r.sum := (cipherLoad_sum _ _ _).trans h.symm
  obtain ⟨h0, h1⟩ := decryptRounds_congr key Config.rounds (cipherLoad_v0 0#1 r.v0 r.v1) (cipherLoad_v1 0#1 r.v0 r.v1) hsum
  rw [decryptBlock, decryptBlockOn_eq, h0, h1]

/-- EncryptBlock of the halves of any registers that hold its first round constant, 0 (R147). -/
theorem encryptBlock_halves (key : Words4) {r : CipherRegs} (h : r.sum = 0#32) :
    encryptBlock r.v0 r.v1 key =
      ((encryptRounds key Config.rounds r).v0, (encryptRounds key Config.rounds r).v1) := by
  obtain ⟨h0, h1⟩ := encryptRounds_congr key Config.rounds (a := ⟨r.v0, r.v1, 0#32, 0#6, 0#1⟩) (b := r) rfl rfl h.symm
  rw [encryptBlock_eq, h0, h1]

/-- An encryption ends with the round constant a decryption begins with, so the decryption undoes all its rounds (R147). -/
theorem decryptBlock_encryptBlock (v0 v1 : Word) (key : Words4) :
    decryptBlock (encryptBlock v0 v1 key).1 (encryptBlock v0 v1 key).2 key = (v0, v1) := by
  have hsum : (encryptRounds key Config.rounds ⟨v0, v1, 0#32, 0#6, 0#1⟩).sum =
      BitVec.ofNat 32 (0x9E3779B9 * 32) := by
    rw [encryptRounds_sum, BitVec.zero_add]
  rw [encryptBlock_eq, decryptBlock_halves key hsum, decryptRounds_encryptRounds]

/-- A decryption ends with the round constant an encryption begins with, so the encryption undoes all its rounds (R147). -/
theorem encryptBlock_decryptBlock (v0 v1 : Word) (key : Words4) :
    encryptBlock (decryptBlock v0 v1 key).1 (decryptBlock v0 v1 key).2 key = (v0, v1) := by
  have hsum : (decryptRounds key Config.rounds (cipherLoad 0#1 v0 v1)).sum = 0#32 :=
    (sumScheduleIsFixed key 0#1 v0 v1 32 le_rfl).1
  rw [decryptBlock, decryptBlockOn_eq, encryptBlock_halves key hsum, encryptRounds_decryptRounds,
    cipherLoad_v0, cipherLoad_v1]

/-- Settles O47: the two functions are inverse on both sides, and so bijections. -/
theorem decryptInvertsEncrypt : Obligations.DecryptInvertsEncrypt := by
  intro key
  have hde (b : Word × Word) := decryptBlock_encryptBlock b.1 b.2 key
  have hed (b : Word × Word) := encryptBlock_decryptBlock b.1 b.2 key
  exact ⟨fun v0 v1 => ⟨hde (v0, v1), hed (v0, v1)⟩,
    Function.bijective_iff_has_inverse.2 ⟨fun b => encryptBlock b.1 b.2 key, hed, hde⟩,
    Function.bijective_iff_has_inverse.2 ⟨fun b => decryptBlock b.1 b.2 key, hde, hed⟩⟩

/-! DECODE with the key held -/

/-- With the key held DECODE runs its stages 2 to 4 at once (45_decode_read.md R181). -/
theorem exec_decode_of_held {s : State} (h : s.keyv = true) : exec .decode s = .next s.decodeStages := by
  simp [exec_eq_next, execTo, h]

/-- A token that fits, without an invalid character, in a block that has not failed, is decrypted and sliced (R181). -/
theorem State.decodeStages_of_good {s : State} (hf : s.fatal = false) (hb : s.badc = false) (ho : s.ovf = false) :
    s.decodeStages = s.decodeSucceed := by
  simp [State.decodeStages, hf, hb, ho]

/-- Only the successful end leaves `VALID` set (60_exceptions.md R224). -/
theorem State.decodeStages_of_valid {s : State} (h : s.decodeStages.valid = true) : s.decodeStages = s.decodeSucceed := by
  rcases s.decodeStages_cases with ⟨-, e⟩ | ⟨-, -, e⟩ | ⟨-, -, -, e⟩ | ⟨-, -, -, e⟩
  · simp [e] at h
  · simp [e] at h
  · simp [e] at h
  · exact e

/-- `PT[0]`, `PT[1]` are the first ciphertext block decrypted (R144). -/
theorem State.decodeSucceed_block_one (s : State) :
    (s.decodeSucceed.res.pt.w0, s.decodeSucceed.res.pt.w1) = decryptBlock (ctWord s.acc 0) (ctWord s.acc 1) s.k := rfl

/-- `PT[2]`, `PT[3]` are the second ciphertext block decrypted, by the same function (R144). -/
theorem State.decodeSucceed_block_two (s : State) :
    (s.decodeSucceed.res.pt.w2, s.decodeSucceed.res.pt.w3) = decryptBlock (ctWord s.acc 2) (ctWord s.acc 3) s.k :=
  decryptBlockOn_blk 1#1 _ _ _

/-- Settles O34: the next state is `decodeSucceed`'s, whose results are those of `unpack`. -/
theorem decodeDecryptsAndSlices : Obligations.DecodeDecryptsAndSlices := fun s hk hf hb ho =>
  ⟨s.decodeSucceed, (exec_decode_of_held hk).trans (congrArg _ (State.decodeStages_of_good hf hb ho)),
    s.decodeSucceed_block_one, s.decodeSucceed_block_two, unpack_sliced _, rfl, rfl, rfl⟩

/-! The two blocks -/

/-- DecryptBlock of a 64-bit block, its first word most significant (R145). -/
def decryptHalf (x : BitVec 64) (key : Words4) : Word × Word := decryptBlock (x.extractLsb' 32 32) (x.extractLsb' 0 32) key

/-- A word of a half of the accumulator, the half beginning at bit `a`. -/
theorem extractLsb'_half (acc : Wide) (a : Nat) {i : Nat} (h : i + 32 ≤ 64) :
    (acc.extractLsb' a 64).extractLsb' i 32 = acc.extractLsb' (a + i) 32 := by
  ext j hj
  simp [Nat.add_assoc, show i + j < 64 by omega]

/-- The first half of `PT` is the upper half of `ACC` decrypted (R145). -/
theorem State.decodeSucceed_first_half (s : State) :
    (s.decodeSucceed.res.pt.w0, s.decodeSucceed.res.pt.w1) = decryptHalf (s.acc.extractLsb' 64 64) s.k := by
  rw [s.decodeSucceed_block_one, decryptHalf, extractLsb'_half _ _ (by decide), extractLsb'_half _ _ (by decide),
    ctWord_eq_slice _ (by decide), ctWord_eq_slice _ (by decide)]

/-- The second half of `PT` is the lower half of `ACC` decrypted (R145). -/
theorem State.decodeSucceed_second_half (s : State) :
    (s.decodeSucceed.res.pt.w2, s.decodeSucceed.res.pt.w3) = decryptHalf (s.acc.extractLsb' 0 64) s.k := by
  rw [s.decodeSucceed_block_two, decryptHalf, extractLsb'_half _ _ (by decide), extractLsb'_half _ _ (by decide),
    ctWord_eq_slice _ (by decide), ctWord_eq_slice _ (by decide)]

/-- A DECODE with the key held that leaves `VALID` set is the successful one. -/
theorem eq_decodeSucceed_of_exec_decode {s t : State} (hk : s.keyv = true) (he : exec .decode s = .next t)
    (hv : t.valid = true) : t = s.decodeSucceed := by
  obtain rfl : s.decodeStages = t := by simpa only [exec_decode_of_held hk, Host.Outcome.next.injEq] using he
  exact State.decodeStages_of_valid hv

/-- Settles O50: both halves of `PT` are one function, `decryptHalf`, of the half of `ACC` and the key. -/
theorem blocksDecryptIndependently : Obligations.BlocksDecryptIndependently := by
  intro s s' t t' hk hk' hkey he he' hv hv'
  obtain rfl := eq_decodeSucceed_of_exec_decode hk he hv
  obtain rfl := eq_decodeSucceed_of_exec_decode hk' he' hv'
  simp only [← Prod.mk.injEq, State.decodeSucceed_first_half, State.decodeSucceed_second_half, ← hkey]
  exact ⟨congrArg (decryptHalf · s.k), congrArg (decryptHalf · s.k), congrArg (decryptHalf · s.k)⟩

end Sys2Proof.Machine
end

section
/-! PROOFS. The family 45_decode_read.md: what RD cannot reach (R186), and NOP (R187). -/

namespace Sys2Proof.Machine

/-- The state a command answers is `execTo`'s. -/
theorem eq_execTo_of_exec {i : Instr} {s t : State} (h : exec i s = .next t) : t = execTo i s :=
  Host.Outcome.next.inj (h.symm.trans (exec_eq_next i s))

/-! The registers RD cannot reach -/

/-- `s` with other contents in the registers RD cannot reach: the key, `HPEND`, `PENDCMD` and the cipher working registers (R186). -/
def State.withHidden (k : Words4) (h : Bool) (p : PendCmd) (w : CipherRegs) (s : State) : State :=
  { s with k := k, hpend := h, pendcmd := p, work := w }

@[simp] theorem State.withHidden_rsps (k : Words4) (h : Bool) (p : PendCmd) (w : CipherRegs) (s : State) :
    (s.withHidden k h p w).rsps = s.rsps := rfl

/-- No select names a word of a hidden register (20_memory.md R61): STATUS has `KEYV` and not the key. -/
theorem selectWord_withHidden (k : Words4) (h : Bool) (p : PendCmd) (w : CipherRegs) (s : State) (r : Select) :
    selectWord (s.withHidden k h p w) r = selectWord s r := by
  cases r <;> rfl

/-- RD neither reads nor writes the hidden registers, also for a select 16 to 255. -/
theorem execTo_rd_withHidden (k : Words4) (h : Bool) (p : PendCmd) (w : CipherRegs) (s : State) (sel : Byte) :
    execTo (.rd sel) (s.withHidden k h p w) = (execTo (.rd sel) s).withHidden k h p w := by
  simp only [execTo]
  cases selectOf sel with
  | some r => exact congrArg (State.respond · (s.withHidden k h p w)) (selectWord_withHidden k h p w s r)
  | none => rfl

/-- Settles O44: the two end states are `execTo`'s, and RD commutes with replacing the hidden registers. -/
theorem readsCannotReachKey : Obligations.ReadsCannotReachKey := by
  intro s t t' sel k h p w ht ht'
  obtain rfl := eq_execTo_of_exec ht
  obtain rfl : t' = execTo (.rd sel) (s.withHidden k h p w) := eq_execTo_of_exec ht'
  rw [execTo_rd_withHidden, State.withHidden_rsps]

/-! NOP -/

/-- A suspended block takes no word of the host (20_memory.md R57). -/
theorem hostMove_of_suspended {s : State} (h : s.hpend = true) : hostMove s = .next s := by
  simp [hostMove, State.cmdReady, h]

/-- While the block is suspended the host's step only uses up the move. -/
theorem step_of_suspended {s : State} {ms : List Move} (h : s.hpend = true) (hn : HostMovesNext s ms) :
    step s = .next { s with moves := ms } :=
  (step_of_hostMovesNext hn).trans (hostMove_of_suspended (s := { s with moves := ms }) h)

/-- Settles O21: the word has NOP's fields; NOP's end state is the state itself; whatever the word, a suspended block does not
take it. -/
theorem nopLeavesEverything : Obligations.NopLeavesEverything :=
  ⟨decode_eq_command_iff.2 (by decide), exec_eq_next .nop, fun _ _ _ h hn _ => step_of_suspended h hn⟩

end Sys2Proof.Machine
end

section
/-! PROOFS. The family 46_host_lookup_and_profile.md: the names of codes (R201), the lender (R202), and the host's outcome from the
words RD delivers (R204, R205, R207). -/

namespace Sys2Proof.Machine

/-! Names and lender -/

/-- Outside 1 to 50 the table is not asked (R201). -/
theorem nameOf_of_unpopulated (table : List (Nat × String)) {code : Nat} (h : code = 0 ∨ 50 < code) :
    nameOf table code = unknownName :=
  if_neg (by omega)

/-- A code without an entry (R201). -/
theorem nameOf_of_lookup_none {table : List (Nat × String)} {code : Nat} (h : table.lookup code = none) :
    nameOf table code = unknownName := by
  rw [nameOf, h, Option.getD_none, ite_self]

/-- A populated code (R201). -/
theorem nameOf_of_lookup_some {table : List (Nat × String)} {code : Nat} {n : String} (hlow : 1 ≤ code) (hhigh : code ≤ 50)
    (h : table.lookup code = some n) : nameOf table code = n := by
  rw [nameOf, if_pos ⟨hlow, hhigh⟩, h, Option.getD_some]

/-- The NBFC name goes before the bank name (R202). -/
theorem lenderOf_of_known {bankName nbfcName : String} (h : nbfcName ≠ unknownName) : lenderOf bankName nbfcName = nbfcName :=
  if_pos h

/-- Without an NBFC name the bank is the lender (R202). -/
theorem lenderOf_unknown (bankName : String) : lenderOf bankName unknownName = bankName :=
  if_neg (not_not_intro rfl)

/-- Settles O59: each branch of `nameOf` and of `lenderOf` by its own lemma. -/
theorem namesAndLender : Obligations.NamesAndLender := by
  refine ⟨fun table _ => ⟨nameOf_of_unpopulated table, nameOf_of_lookup_none, fun _ => nameOf_of_lookup_some⟩,
    fun bankName _ => ⟨lenderOf_of_known, ?_⟩⟩
  rintro rfl
  exact lenderOf_unknown bankName

/-! The words of RDFIELDS -/

/-- The words RDFIELDS delivers (30_encoding.md R90), as the host reads them. -/
def State.fieldWords (s : State) : FieldWords :=
  ⟨selectWord s .status, selectWord s .phoneHi, selectWord s .phoneLo, selectWord s .settle, selectWord s .pending,
    selectWord s .bank, selectWord s .nbfc, selectWord s .pad⟩

/-- Bit 1 of STATUS is `VALID` (10_state.md R37). -/
theorem statusWord_bit_valid (s : State) : (statusWord s).getLsbD 1 = s.valid := by
  rw [statusWord, BitVec.getLsbD_append, BitVec.getLsbD_append]
  simp

/-- Bits 4 to 2 of STATUS are `ERR` (10_state.md R37). -/
theorem statusWord_bits_err (s : State) : (statusWord s).extractLsb' 2 3 = s.err := by
  rw [statusWord, BitVec.extractLsb'_append_eq_of_le (by decide), BitVec.extractLsb'_append_eq_of_le (by decide)]
  exact BitVec.extractLsb'_append_eq_right

/-- The profile of the words is the one assembled from the result registers: the phone number is put together again from its two
words, and widening a register keeps its number (R204, R205). -/
theorem profileOf_fieldWords (tables : LookupTables) (s : State) :
    profileOf tables s.fieldWords = assembleProfile s.res.phone.toNat s.res.settle.toNat s.res.pending.toNat
      (nameOf tables.bank s.res.bank.toNat) (nameOf tables.nbfc s.res.nbfc.toNat) := by
  simp only [profileOf, State.fieldWords, selectWord, phoneNumber_words, zeroExtend32_toNat _ (by decide : 30 ≤ 32),
    zeroExtend32_toNat _ (by decide : 10 ≤ 32)]

/-- With `VALID` set the outcome is the profile of the result registers (R205). -/
theorem hostOutcome_fieldWords_of_valid (tables : LookupTables) {s : State} (h : s.valid = true) :
    hostOutcome tables s.fieldWords = some (.ok (assembleProfile s.res.phone.toNat s.res.settle.toNat s.res.pending.toNat
      (nameOf tables.bank s.res.bank.toNat) (nameOf tables.nbfc s.res.nbfc.toNat))) := by
  rw [hostOutcome_valid tables (w := s.fieldWords) ((statusWord_bit_valid s).trans h), profileOf_fieldWords]

/-- With `VALID` clear the outcome is the error whose code `ERR` holds, of the three the hardware reports (R207). -/
theorem hostOutcome_fieldWords_of_err (tables : LookupTables) {s : State} {e : DecodeError} (hn : e ≠ .noTokenPresent)
    (hv : s.valid = false) (he : s.err = e.code) : hostOutcome tables s.fieldWords = some (.error e) :=
  hostOutcome_error tables ((statusWord_bit_valid s).trans hv) ((statusWord_bits_err s).trans he) hn

/-- Settles O60: `VALID` and `ERR` are read back from STATUS, which selects the outcome; the profile is that of the registers, and
without a token the block is not asked. -/
theorem hostOutcomeFromReads : Obligations.HostOutcomeFromReads := fun tables _ =>
  ⟨fun hv => ⟨_, hostOutcome_fieldWords_of_valid tables hv, rfl, rfl, rfl, rfl, rfl, rfl, rfl⟩,
    hostOutcome_fieldWords_of_err tables (e := .invalidTokenCharacter) nofun,
    hostOutcome_fieldWords_of_err tables (e := .tokenTooLong) nofun,
    hostOutcome_fieldWords_of_err tables (e := .environmentUnavailable) nofun, rfl⟩

end Sys2Proof.Machine
end

section
/-! PROOFS. The family 70_reset_and_hazards.md: a block that has failed stays failed until the next reset (R257). -/

namespace Sys2Proof.Machine

/-- The block takes commands and `FATAL` is set (R257). -/
def State.FailedReady (s : State) : Prop := s.hpend = false ∧ s.fatal = true

/-- Once `FATAL` is set KDF does nothing (41_key_derivation.md R102). -/
theorem execTo_kdf_of_fatal {s : State} (h : s.fatal = true) : execTo .kdf s = s := by
  simp [execTo, h]

/-- No command makes a failed block usable or suspends it: KDF and DECODE issue no request, and the others leave `FATAL` and
`HPEND`. -/
theorem execTo_failedReady {s : State} (h : s.FailedReady) (i : Instr) : (execTo i s).FailedReady := by
  obtain ⟨hready, hfatal⟩ := h
  cases i with
  | nop => exact ⟨hready, hfatal⟩
  | start => exact ⟨s.clearToken_hpend.trans hready, s.clearToken_fatal.trans hfatal⟩
  | push c => exact ⟨(s.pushChar_hpend c).trans hready, (s.pushChar_fatal c).trans hfatal⟩
  | kdf =>
    rw [execTo_kdf_of_fatal hfatal]
    exact ⟨hready, hfatal⟩
  | decode =>
    rw [execTo_decode_of_fatal hfatal]
    exact ⟨(s.raise_hpend _).trans hready, (s.raise_fatal _).trans hfatal⟩
  | rd sel =>
    simp only [execTo]
    split
    · exact ⟨(s.respond_hpend _).trans hready, (s.respond_fatal _).trans hfatal⟩
    · exact ⟨s.reservedRdWord_hpend.trans hready, s.reservedRdWord_fatal.trans hfatal⟩

/-- A failed block takes every command of a list and is failed after them. -/
theorem execAll_failedReady {s : State} (h : s.FailedReady) (is : List Instr) :
    ∃ t, execAll is s = .next t ∧ t.FailedReady := by
  induction is generalizing s with
  | nil => exact ⟨s, execAll_nil s, h⟩
  | cons i is ih =>
    rw [execAll_cons h.1]
    exact ih (execTo_failedReady h i)

/-- Settles O56: the commands before it leave the block failed and ready, so DECODE takes its failure path; START is
`clearToken`. -/
theorem fatalFailsEveryToken : Obligations.FatalFailsEveryToken := by
  refine fun s hfatal => ⟨fun is hready => ?_, s.clearToken, rfl, s.clearToken_err, s.clearToken_fatal.trans hfatal⟩
  obtain ⟨t, hrun, htready, htfatal⟩ := execAll_failedReady ⟨hready, hfatal⟩ is
  refine ⟨t.raise .environmentUnavailable, ?_, htfatal, rfl, rfl, rfl⟩
  rw [execAll_append [.decode] hrun htready, execAll_cons htready, execAll_nil, execTo_decode_of_fatal htfatal]

end Sys2Proof.Machine
end

section
/-! PROOFS. The other family, encoding: decoding against encoding (30_encoding.md R82, R83), and the step that runs a decoded
command (20_memory.md R62). -/

namespace Sys2Proof

/-- Settles O2: a word decodes to a command exactly if its fields are the command's, and the fields make up the word. -/
theorem decodeEncodeAgree : Obligations.DecodeEncodeAgree := by
  intro w i
  have hword : encode i = w ↔ opField w = i.opcode ∧ argField w = i.argument := eq_comm.trans eq_append_iff_fields
  rw [decode_eq_command_iff, hword, ← and_assoc, and_comm]

/-- The word of a well formed command decodes to it (R83). -/
theorem decode_encode {i : Instr} (h : i.wellFormed = true) : decode (encode i) = .command i :=
  (decodeEncodeAgree _ i).2 ⟨h, rfl⟩

/-- A word that decodes to a command decodes to a well formed one (R81). -/
theorem wellFormed_of_decode {w : CmdWord} {i : Instr} (h : decode w = .command i) : i.wellFormed = true :=
  ((decodeEncodeAgree w i).1 h).1

/-- Settles O1: the fourteen words are closed, and the decoder is evaluated on each. -/
theorem commandWordsDecode : Obligations.CommandWordsDecode := by
  unfold Obligations.CommandWordsDecode
  decide

end Sys2Proof

namespace Sys2Proof.Machine

/-- Issuing a word that decodes to a command runs the command. -/
theorem issueWord_of_command {w : CmdWord} {i : Instr} (h : decode w = .command i) (s : State) :
    issueWord w s = exec i s := by
  rw [issueWord, h]

/-- Settles O8: the step issues the host's next word. -/
theorem stepRunsDecodedCommand : Obligations.StepRunsDecodedCommand := fun _ _ _ _ _ hready hn hc hd =>
  (step_issues_word hready hn hc).trans (issueWord_of_command hd _)

/-- A word given by its number is placed as that word. -/
theorem State.withFetchWord_toNat (s : State) (w : CmdWord) : s.withFetchWord 16 w.toNat = s.offerWord w := by
  rw [State.withFetchWord, Nat.mod_eq_of_lt w.isLt, BitVec.ofNat_toNat, BitVec.setWidth_eq]

/-- The table's reading of a word is the decoder's. -/
theorem decodeTableWord_toNat (w : CmdWord) : decodeTableWord 16 w.toNat = (decode w).instr? := by
  rw [decodeTableWord, Nat.mod_eq_of_lt w.isLt, BitVec.ofNat_toNat, BitVec.setWidth_eq]

/-- Settles O9: the encoding decodes to the command, and the placed word is the one the host issues next. -/
theorem fetchWordIsRunNext : Obligations.FetchWordIsRunNext := by
  intro s i hi
  rw [decodeTableWord_toNat, State.withFetchWord_toNat, decode_encode hi]
  exact ⟨rfl, stepRunsDecodedCommand (s.offerWord (encode i)) s.moves _ s.cmds i rfl (.inr rfl) rfl (decode_encode hi)⟩

/-- A select 16 to 255 names no word (20_memory.md R61). -/
theorem selectOf_of_reserved {sel : Byte} (h : 16 ≤ sel.toNat) : selectOf sel = none := by
  have table : ∀ b : Byte, 16 ≤ b.toNat → selectOf b = none := by decide +kernel
  exact table sel h

/-- Settles O11: the select names no word, so RD acts as the reserved RD word; its own word decodes to that one. -/
theorem rdOfReservedSelectActsAsReservedWord : Obligations.RdOfReservedSelectActsAsReservedWord := by
  intro sel s h
  have hrd : exec (.rd sel) s = .next s.reservedRdWord := by simp only [exec, execRd, selectOf_of_reserved h]
  have hword : decode (encode (.rd sel)) = .reservedRd := decode_rd_of_reserved_select h
  exact ⟨hrd, by rw [issueWord_eq, hword, hrd]⟩

end Sys2Proof.Machine
end

section
/-! PROOFS. The other family, the key unit (41_key_derivation.md R102 to R105): when KDF and DECODE go through stage 1, and what the
answer of the hash primitive leaves. -/

namespace Sys2Proof.Machine

/-- The key unit is settled, or a derivation is still open. -/
theorem State.settled_or_open (s : State) : (s.keyv = true ∨ s.fatal = true) ∨ (s.keyv = false ∧ s.fatal = false) := by
  cases s.keyv <;> cases s.fatal <;> simp

/-- KDF of a settled key unit does nothing (R102). -/
theorem execTo_kdf_of_settled {s : State} (h : s.keyv = true ∨ s.fatal = true) : execTo .kdf s = s :=
  if_pos (Bool.or_eq_true_iff.2 h)

/-- KDF otherwise derives the key. -/
theorem execTo_kdf_of_open {s : State} (hk : s.keyv = false) (hf : s.fatal = false) : execTo .kdf s = s.keyDerive .kdf :=
  if_neg (by simp [hk, hf])

/-- DECODE of a settled key unit goes on to its stages 2 to 4 (45_decode_read.md R181). -/
theorem execTo_decode_of_settled {s : State} (h : s.keyv = true ∨ s.fatal = true) : execTo .decode s = s.decodeStages :=
  if_pos (Bool.or_eq_true_iff.2 h)

/-- DECODE otherwise derives the key first. -/
theorem execTo_decode_of_open {s : State} (hk : s.keyv = false) (hf : s.fatal = false) :
    execTo .decode s = s.keyDerive .decode :=
  if_neg (by simp [hk, hf])

/-- The key unit once the answer of a suspended command is taken: the suspension over, `PENDCMD` at rest. -/
def State.settleKeyUnit (a : HashAnswer) (s : State) : State := { s.takeAnswer a with hpend := false, pendcmd := .kdf }

/-- The answer settles the key unit; a suspended DECODE then runs its stages 2 to 4. -/
theorem State.answerHash_eq_settleKeyUnit (a : HashAnswer) (s : State) :
    (s.pendcmd = .kdf ∧ s.answerHash a = s.settleKeyUnit a) ∨
    (s.pendcmd = .decode ∧ s.answerHash a = (s.settleKeyUnit a).decodeStages) := by
  cases h : s.pendcmd with
  | kdf => exact .inl ⟨rfl, State.answerHash_kdf h a⟩
  | decode => exact .inr ⟨rfl, State.answerHash_decode h a⟩

/-- An answer of either kind settles the key unit (41_key_derivation.md R104, R105). -/
theorem State.settleKeyUnit_settled (a : HashAnswer) (s : State) :
    (s.settleKeyUnit a).keyv = true ∨ (s.settleKeyUnit a).fatal = true := by
  cases a with
  | digest d => exact .inl rfl
  | unavailable => exact .inr rfl


/-- An answer that comes at once is taken in the step of the request (10_state.md R24). -/
theorem State.keyDerive_answered {s : State} {a : HashAnswer} {ms : List Move} (h : s.moves = .hash a :: ms) (p : PendCmd) :
    s.keyDerive p = State.answerHash a { s.requestHash p with moves := ms } :=
  State.awaitHash_answered (s := s.requestHash p) h

/-- What the request wrote into `HPEND` and `PENDCMD` is gone once the answer is taken; the count of requests stays. -/
theorem State.settleKeyUnit_requestHash (a : HashAnswer) (p : PendCmd) (s : State) (ms : List Move) :
    State.settleKeyUnit a { s.requestHash p with moves := ms } =
      State.settleKeyUnit a { s with hreqs := s.hreqs + 1, moves := ms } := by
  cases a <;> rfl

/-- KDF with an answer at once settles the key unit (R102). -/
theorem exec_kdf_answered {s : State} {a : HashAnswer} {ms : List Move} (hk : s.keyv = false) (hf : s.fatal = false)
    (h : s.moves = .hash a :: ms) :
    exec .kdf s = .next (State.settleKeyUnit a { s with hreqs := s.hreqs + 1, moves := ms }) := by
  rw [exec_eq_next, execTo_kdf_of_open hk hf, State.keyDerive_answered h, State.answerHash_kdf rfl, ← State.settleKeyUnit,
    State.settleKeyUnit_requestHash]

/-- DECODE with an answer at once settles the key unit and goes on (45_decode_read.md R181). -/
theorem exec_decode_answered {s : State} {a : HashAnswer} {ms : List Move} (hk : s.keyv = false) (hf : s.fatal = false)
    (h : s.moves = .hash a :: ms) :
    exec .decode s =
      .next (State.decodeStages (State.settleKeyUnit a { s with hreqs := s.hreqs + 1, moves := ms })) := by
  rw [exec_eq_next, execTo_decode_of_open hk hf, State.keyDerive_answered h, State.answerHash_decode rfl, ← State.settleKeyUnit,
    State.settleKeyUnit_requestHash]

/-- Once `FATAL` is set, stages 2 to 4 are the failure path with code 3 (60_exceptions.md R226). -/
theorem State.decodeStages_of_fatal {s : State} (h : s.fatal = true) : s.decodeStages = s.raise .environmentUnavailable :=
  if_pos h

/-- The step in which a suspended command takes its answer (R103). -/
theorem step_answers {s : State} {a : HashAnswer} {ms : List Move} (hp : s.hpend = true) (hm : s.moves = .hash a :: ms) :
    step s = .next (State.answerHash a { s with moves := ms }) := by
  rw [step_of_move hm]
  exact if_pos hp

/-- Settles O25: the digest settles the key unit with its key words. -/
theorem kdfLoadsKey : Obligations.KdfLoadsKey := fun _ _ _ hk hf _ hm => exec_kdf_answered hk hf hm

/-- Settles O27: an honest digest is the hash of the secret, and its key words are loaded. -/
theorem honestHashGivesSecretKey : Obligations.HonestHashGivesSecretKey := by
  intro s d ms hk hf hp hhonest hm
  have hd : d = Config.hash256 Config.secret := hhonest d (hm ▸ List.mem_cons_self ..)
  exact ⟨_, exec_kdf_answered hk hf hm, rfl, congrArg keyWords hd⟩

/-- Settles O28: "unavailable" settles the key unit with `FATAL`. -/
theorem kdfUnavailableSetsFatal : Obligations.KdfUnavailableSetsFatal := fun _ _ hk hf _ hm => exec_kdf_answered hk hf hm

/-- Settles O29: a settled key unit is left as it is. -/
theorem kdfHeldOrFatalDoesNothing : Obligations.KdfHeldOrFatalDoesNothing := fun s hset =>
  (exec_eq_next .kdf s).trans (congrArg _ (execTo_kdf_of_settled hset))

/-- Settles O30: without an answer the derivation stays at its request. -/
theorem derivationSuspends : Obligations.DerivationSuspends := by
  intro s hk hf _ hwait
  have hstay (p : PendCmd) : s.keyDerive p = s.requestHash p := State.awaitHash_waiting (s := s.requestHash p) hwait
  rw [exec_eq_next, exec_eq_next, execTo_kdf_of_open hk hf, execTo_decode_of_open hk hf, hstay, hstay]
  exact ⟨rfl, rfl⟩

/-- Settles O31: the step takes the answer, after which KDF has nothing more to do. -/
theorem answerEndsSuspendedKdf : Obligations.AnswerEndsSuspendedKdf := by
  intro s ms hp hkdf
  refine ⟨fun d hm => ?_, fun hm => ?_⟩ <;>
    rw [step_answers hp hm, State.answerHash_kdf (s := { s with moves := ms }) hkdf, ← hkdf] <;> rfl

/-- Settles O32: the step takes the answer and runs stages 2 to 4, as a DECODE of the settled key unit does. -/
theorem answerResumesSuspendedDecode : Obligations.AnswerResumesSuspendedDecode := by
  intro s ms hp hdec
  refine ⟨fun d hm => ?_, fun hm => ?_⟩ <;>
    rw [step_answers hp hm, State.answerHash_decode (s := { s with moves := ms }) hdec]
  · exact (exec_decode_of_held rfl).symm
  · exact congrArg _ (State.decodeStages_of_fatal rfl)

/-- In a block that is not suspended only `PENDCMD` is put to rest. -/
theorem State.settleKeyUnit_of_ready {s : State} (hp : s.hpend = false) (a : HashAnswer) :
    s.settleKeyUnit a = { s.takeAnswer a with pendcmd := .kdf } := by
  cases a <;> simp [State.settleKeyUnit, State.takeAnswer, hp]

/-- Settles O33: the answer settles the key unit in the same step, and stages 2 to 4 follow. -/
theorem decodeDerivesKeyFirst : Obligations.DecodeDerivesKeyFirst := by
  intro s ms hk hf hp
  refine ⟨fun d hm => ?_, fun hm => ?_⟩ <;>
    rw [exec_decode_answered hk hf hm,
      State.settleKeyUnit_of_ready (s := { s with hreqs := s.hreqs + 1, moves := ms }) hp]
  · exact (exec_decode_of_held rfl).symm
  · exact congrArg _ (State.decodeStages_of_fatal rfl)

end Sys2Proof.Machine
end

section
/-! PROOFS. The other family, the invariant (10_state.md R40): it holds at reset, and every operation of a step keeps it. -/

namespace Sys2Proof.Machine

/-- Settles O6: with nothing held, pending or valid at reset, each clause reads off the reset values. -/
theorem resetMeetsInvariant : Obligations.ResetMeetsInvariant where
  keyOrFatal := by simp
  emptyUnlessValid := fun _ => rfl
  validResult := nofun
  errCode := .inl rfl
  pendingUnanswered := nofun
  oneRequest := rfl
  pendcmdAtRest := fun _ => rfl
  roundBound := by decide

/-- The invariant speaks neither of the key's value, the token and the ports, nor of the reserved words issued and the counter. -/
theorem State.Inv.withOthers {s : State} (h : s.Inv) {k : Words4} {acc : Wide} {ovf badc cmderr : Bool} {cmds : List CmdWord}
    {rsps : List Word} {moves : List Move} {n : Nat} :
    State.Inv { s with k := k, acc := acc, ovf := ovf, badc := badc, cmderr := cmderr, cmds := cmds, rsps := rsps
                       moves := moves, freeCount := n } :=
  ⟨h.keyOrFatal, h.emptyUnlessValid, h.validResult, h.errCode, h.pendingUnanswered, h.oneRequest, h.pendcmdAtRest, h.roundBound⟩

/-- An empty result without `VALID` meets it, with any code the hardware reports. -/
theorem State.Inv.emptied {s : State} (h : s.Inv) {c : BitVec 3} (hc : c = 0#3 ∨ c = 1#3 ∨ c = 2#3 ∨ c = 3#3) :
    State.Inv { s with res := Results.empty, valid := false, err := c } :=
  ⟨h.keyOrFatal, fun _ => rfl, nofun, hc, h.pendingUnanswered, h.oneRequest, h.pendcmdAtRest, h.roundBound⟩

/-- START keeps the invariant. -/
theorem State.Inv.clearToken {s : State} (h : s.Inv) : s.clearToken.Inv := (h.emptied (.inl rfl)).withOthers

/-- PUSH keeps the invariant. -/
theorem State.Inv.pushChar {s : State} (h : s.Inv) (c : Byte) : (s.pushChar c).Inv := by
  rw [s.pushChar_frame]
  exact h.withOthers

/-- The successful end of DECODE keeps it, because the key is held. -/
theorem State.Inv.decodeSucceed {s : State} (h : s.Inv) (hk : s.keyv = true) : s.decodeSucceed.Inv where
  keyOrFatal := h.keyOrFatal
  emptyUnlessValid := nofun
  validResult := fun _ => ⟨rfl, hk, unpack_sliced _⟩
  errCode := .inl rfl
  pendingUnanswered := h.pendingUnanswered
  oneRequest := h.oneRequest
  pendcmdAtRest := h.pendcmdAtRest
  roundBound := freeCipherRegs_rnd_le _

/-- Stages 2 to 4 keep the invariant, once stage 1 has settled the key unit. -/
theorem State.Inv.decodeStages {s : State} (h : s.Inv) (hk : s.keyv = true ∨ s.fatal = true) : s.decodeStages.Inv := by
  rcases s.decodeStages_cases with ⟨-, e⟩ | ⟨-, -, e⟩ | ⟨-, -, -, e⟩ | ⟨hf, -, -, e⟩ <;> rw [e]
  · exact h.emptied (.inr (.inr (.inr rfl)))
  · exact h.emptied (.inr (.inl rfl))
  · exact h.emptied (.inr (.inr (.inl rfl)))
  · exact h.decodeSucceed (hk.resolve_right (by simp [hf]))

/-- A hash request is the first one since reset, if neither the key nor `FATAL` stands nor a request is pending (R64). -/
theorem State.Inv.requestHash {s : State} (h : s.Inv) (hk : s.keyv = false) (hf : s.fatal = false) (hp : s.hpend = false)
    (p : PendCmd) : (s.requestHash p).Inv where
  keyOrFatal := h.keyOrFatal
  emptyUnlessValid := h.emptyUnlessValid
  validResult := h.validResult
  errCode := h.errCode
  pendingUnanswered := fun _ => ⟨hk, hf⟩
  oneRequest := by simp [h.oneRequest, hk, hf, hp]
  pendcmdAtRest := nofun
  roundBound := h.roundBound

/-- Taking the awaited answer keeps the invariant: the one request of before stands for the key or for `FATAL` now, and no valid
result stood while the key was missing. -/
theorem State.Inv.settleKeyUnit {s : State} (h : s.Inv) (hp : s.hpend = true) (a : HashAnswer) : (s.settleKeyUnit a).Inv := by
  obtain ⟨hk, hf⟩ := h.pendingUnanswered hp
  have hone : s.hreqs = 1 := by simp [h.oneRequest, hp]
  have hinvalid : s.valid ≠ true := fun hv => by
    obtain ⟨-, hkeyv, -⟩ := h.validResult hv
    exact absurd (hk.symm.trans hkeyv) nofun
  cases a with
  | digest d =>
    exact {
      keyOrFatal := fun ⟨_, hfatal⟩ => absurd (hf.symm.trans hfatal) nofun
      emptyUnlessValid := h.emptyUnlessValid
      validResult := fun hv => absurd hv hinvalid
      errCode := h.errCode
      pendingUnanswered := nofun
      oneRequest := hone
      pendcmdAtRest := fun _ => rfl
      roundBound := h.roundBound }
  | unavailable =>
    exact {
      keyOrFatal := fun ⟨hkeyv, _⟩ => absurd (hk.symm.trans hkeyv) nofun
      emptyUnlessValid := h.emptyUnlessValid
      validResult := fun hv => absurd hv hinvalid
      errCode := h.errCode
      pendingUnanswered := nofun
      oneRequest := by simp [State.settleKeyUnit, State.takeAnswer, hone]
      pendcmdAtRest := fun _ => rfl
      roundBound := h.roundBound }

/-- The answer of a suspended command keeps the invariant. -/
theorem State.Inv.answerHash {s : State} (h : s.Inv) (hp : s.hpend = true) (a : HashAnswer) : (s.answerHash a).Inv := by
  rcases s.answerHash_eq_settleKeyUnit a with ⟨-, e⟩ | ⟨-, e⟩ <;> rw [e]
  · exact h.settleKeyUnit hp a
  · exact (h.settleKeyUnit hp a).decodeStages (s.settleKeyUnit_settled a)

/-- A derivation keeps the invariant, whether it ends at once or suspends. -/
theorem State.Inv.keyDerive {s : State} (h : s.Inv) (hk : s.keyv = false) (hf : s.fatal = false) (hp : s.hpend = false)
    (p : PendCmd) : (s.keyDerive p).Inv := by
  have hreq := h.requestHash hk hf hp p
  rcases s.keyDerive_cases p with ⟨a, rest, -, e⟩ | ⟨-, e⟩ <;> rw [e]
  · exact State.Inv.answerHash (s := { s.requestHash p with moves := rest }) hreq.withOthers rfl a
  · exact hreq

/-- A command of a ready block keeps the invariant. -/
theorem State.Inv.execTo {s : State} (h : s.Inv) (hp : s.hpend = false) (i : Instr) : (execTo i s).Inv := by
  cases i with
  | nop => exact h
  | start => exact h.clearToken
  | push c => exact h.pushChar c
  | kdf =>
    rcases s.settled_or_open with hset | ⟨hk, hf⟩
    · rw [execTo_kdf_of_settled hset]
      exact h
    · rw [execTo_kdf_of_open hk hf]
      exact h.keyDerive hk hf hp .kdf
  | decode =>
    rcases s.settled_or_open with hset | ⟨hk, hf⟩
    · rw [execTo_decode_of_settled hset]
      exact h.decodeStages hset
    · rw [execTo_decode_of_open hk hf]
      exact h.keyDerive hk hf hp .decode
  | rd sel =>
    simp only [Machine.execTo]
    split
    · exact h.withOthers
    · exact h.withOthers

/-- Settles O7: each kind of step is one of the operations above, on the state with the move and the word used up. -/
theorem stepKeepsInvariant : Obligations.StepKeepsInvariant := by
  intro s t h hs
  obtain ⟨rest, hkind⟩ := step_kind hs
  cases hkind with
  | quiet => exact h.withOthers
  | command hp hn w cmds i hc hd => exact State.Inv.execTo (s := { s with cmds := cmds, moves := rest }) h.withOthers hp i
  | reservedRd => exact h.withOthers
  | reserved => exact h.withOthers
  | answer a hm hp => exact State.Inv.answerHash (s := { s with moves := rest }) h.withOthers hp a
  | reset => exact resetMeetsInvariant.withOthers

end Sys2Proof.Machine
end

section
/-! PROOFS. The other family, frames: what each command leaves unchanged (10_state.md R38), and what only a reset clears
(70_reset_and_hazards.md R250). -/

namespace Sys2Proof.Machine

/-! The key unit under a command -/

/-- From `s` to `t` the key unit and the hash port are unchanged (10_state.md R21 to R24, 20_memory.md R64). -/
def State.KeyUnitKept (s t : State) : Prop :=
  t.k = s.k ∧ t.keyv = s.keyv ∧ t.fatal = s.fatal ∧ t.hpend = s.hpend ∧ t.pendcmd = s.pendcmd ∧ t.hreqs = s.hreqs ∧
    t.moves = s.moves

theorem State.KeyUnitKept.refl (s : State) : s.KeyUnitKept s := ⟨rfl, rfl, rfl, rfl, rfl, rfl, rfl⟩

theorem State.clearToken_keyUnitKept (s : State) : s.KeyUnitKept s.clearToken := ⟨rfl, rfl, rfl, rfl, rfl, rfl, rfl⟩

theorem State.pushChar_keyUnitKept (c : Byte) (s : State) : s.KeyUnitKept (s.pushChar c) :=
  ⟨s.pushChar_k c, s.pushChar_keyv c, s.pushChar_fatal c, s.pushChar_hpend c, s.pushChar_pendcmd c, s.pushChar_hreqs c,
    s.pushChar_moves c⟩

theorem State.decodeStages_keyUnitKept (s : State) : s.KeyUnitKept s.decodeStages :=
  ⟨s.decodeStages_k, s.decodeStages_keyv, s.decodeStages_fatal, s.decodeStages_hpend, s.decodeStages_pendcmd,
    s.decodeStages_hreqs, s.decodeStages_moves⟩

/-- RD writes the responses, and `CMDERR` for a select 16 to 255. -/
theorem execTo_rd_keyUnitKept (sel : Byte) (s : State) : s.KeyUnitKept (execTo (.rd sel) s) := by
  simp only [execTo]
  split <;> exact ⟨rfl, rfl, rfl, rfl, rfl, rfl, rfl⟩

/-- A command that finds the key unit settled leaves it alone (41_key_derivation.md R106). -/
theorem execTo_keyUnitKept {s : State} (h : s.keyv = true ∨ s.fatal = true) (i : Instr) : s.KeyUnitKept (execTo i s) := by
  cases i with
  | nop => exact .refl s
  | start => exact s.clearToken_keyUnitKept
  | push c => exact s.pushChar_keyUnitKept c
  | kdf =>
    rw [execTo_kdf_of_settled h]
    exact .refl s
  | decode =>
    rw [execTo_decode_of_settled h]
    exact s.decodeStages_keyUnitKept
  | rd sel => exact execTo_rd_keyUnitKept sel s

/-- Settles O43: the end state is `execTo`'s, which keeps a settled key unit. -/
theorem settledKeyUnitIsLeftAlone : Obligations.SettledKeyUnitIsLeftAlone := by
  intro i s t hset h
  obtain rfl := eq_execTo_of_exec h
  exact execTo_keyUnitKept hset i

/-! The frame of each command -/

theorem execTo_push (c : Byte) (s : State) : execTo (.push c) s = s.pushChar c := rfl

/-- A derivation without stages 2 to 4 leaves the results and the working registers. -/
theorem State.keyDerive_kdf_frame (s : State) :
    (s.keyDerive .kdf).work = s.work ∧ (s.keyDerive .kdf).res = s.res ∧ (s.keyDerive .kdf).valid = s.valid ∧
      (s.keyDerive .kdf).err = s.err := by
  rcases s.keyDerive_cases .kdf with ⟨a, rest, -, e⟩ | ⟨-, e⟩ <;> rw [e]
  · rw [State.answerHash_kdf rfl]
    cases a <;> exact ⟨rfl, rfl, rfl, rfl⟩
  · exact ⟨rfl, rfl, rfl, rfl⟩

/-- KDF writes the key unit and the hash port alone. -/
theorem execTo_kdf_frame (s : State) :
    (execTo .kdf s).work = s.work ∧ (execTo .kdf s).res = s.res ∧ (execTo .kdf s).valid = s.valid ∧
      (execTo .kdf s).err = s.err := by
  rcases s.settled_or_open with h | ⟨hk, hf⟩
  · rw [execTo_kdf_of_settled h]
    exact ⟨rfl, rfl, rfl, rfl⟩
  · rw [execTo_kdf_of_open hk hf]
    exact s.keyDerive_kdf_frame

/-- No command writes the words still to issue. -/
@[simp] theorem execTo_cmds (i : Instr) (s : State) : (execTo i s).cmds = s.cmds := by
  cases i with
  | nop => rfl
  | start => rfl
  | push c => exact s.pushChar_cmds c
  | kdf =>
    simp only [execTo]
    split
    · rfl
    · exact s.keyDerive_cmds .kdf
  | decode =>
    simp only [execTo]
    split
    · exact s.decodeStages_cmds
    · exact s.keyDerive_cmds .decode
  | rd sel =>
    simp only [execTo]
    split <;> rfl

/-- RD sets `CMDERR` exactly if its select is none of R81. -/
theorem execTo_rd_cmderr (sel : Byte) (s : State) :
    (execTo (.rd sel) s).cmderr = (s.cmderr || !(Instr.rd sel).wellFormed) := by
  by_cases hsel : sel.toNat < 16
  · obtain ⟨r, hr⟩ := selectOf_isSome hsel
    simp [execTo, hr, Instr.wellFormed, hsel]
  · simp [execTo, selectOf_of_reserved (not_lt.1 hsel), Instr.wellFormed, hsel]

/-- Only a term that is no command sets `CMDERR`, and nothing clears it (10_state.md R35). -/
theorem execTo_cmderr (i : Instr) (s : State) : (execTo i s).cmderr = (s.cmderr || !i.wellFormed) := by
  cases i with
  | nop => exact (Bool.or_false _).symm
  | start => exact (Bool.or_false _).symm
  | push c => exact (s.pushChar_cmderr c).trans (Bool.or_false _).symm
  | kdf =>
    refine Eq.trans ?_ (Bool.or_false _).symm
    simp only [execTo]
    split
    · rfl
    · exact s.keyDerive_cmderr .kdf
  | decode =>
    refine Eq.trans ?_ (Bool.or_false _).symm
    simp only [execTo]
    split
    · exact s.decodeStages_cmderr
    · exact s.keyDerive_cmderr .decode
  | rd sel => exact execTo_rd_cmderr sel s

/-- RD of a select 0 to 15 writes the responses alone. -/
theorem execTo_rd_frame {sel : Byte} (h : sel.toNat < 16) (s : State) :
    execTo (.rd sel) s = { s with rsps := (execTo (.rd sel) s).rsps } := by
  obtain ⟨r, hr⟩ := selectOf_isSome h
  simp [execTo, hr, State.respond]

/-- Settles O42: each end state is `execTo`'s, and the frame is that of the operation it calls. -/
theorem commandFrames : Obligations.CommandFrames := by
  intro s t
  refine ⟨fun h => ?_, fun c h => ?_, fun h => ?_, fun h => ?_, fun sel hsel h => ?_⟩ <;> obtain rfl := eq_execTo_of_exec h
  · exact ⟨rfl, rfl, rfl, rfl, rfl, rfl, rfl, rfl, rfl, rfl, rfl⟩
  · rw [execTo_push, s.pushChar_frame]
    exact ⟨rfl, rfl, rfl, rfl, rfl, rfl, rfl, rfl, rfl, rfl, rfl, rfl, rfl, rfl⟩
  · obtain ⟨hacc, hovf, hbadc⟩ := execTo_kdf_tokenKept s
    obtain ⟨hwork, hres, hvalid, herr⟩ := execTo_kdf_frame s
    exact ⟨hacc, hovf, hbadc, hwork, hres, hvalid, herr, (execTo_cmderr .kdf s).trans (Bool.or_false _), execTo_cmds .kdf s,
      execTo_rsps_of_not_rd (i := .kdf) nofun s⟩
  · obtain ⟨hacc, hovf, hbadc⟩ := execTo_decode_tokenKept s
    exact ⟨hacc, hovf, hbadc, (execTo_cmderr .decode s).trans (Bool.or_false _), execTo_cmds .decode s,
      execTo_rsps_of_not_rd (i := .decode) nofun s⟩
  · exact execTo_rd_frame hsel s

/-! What a step keeps -/

/-- The words still to issue after a step are those before it, the first perhaps taken. -/
theorem step_cmds {s t : State} (h : step s = .next t) : t.cmds = s.cmds ∨ ∃ w, s.cmds = w :: t.cmds := by
  obtain ⟨rest, hkind⟩ := step_kind h
  cases hkind with
  | quiet => exact .inl rfl
  | command _ _ w cmds i hc => exact .inr ⟨w, by rw [hc, execTo_cmds]⟩
  | reservedRd _ _ w cmds hc => exact .inr ⟨w, hc⟩
  | reserved _ _ w cmds hc => exact .inr ⟨w, hc⟩
  | answer a => exact .inl (State.answerHash_cmds a _)
  | reset => exact .inl rfl

/-- A program without reserved words has none left after a step (70_reset_and_hazards.md R261). -/
theorem NoReservedWords.next {s t : State} (h : NoReservedWords s) (hs : step s = .next t) : NoReservedWords t := by
  intro w hw
  rcases step_cmds hs with e | ⟨v, e⟩
  · exact h w (e ▸ hw)
  · exact h w (e ▸ List.mem_cons_of_mem v hw)

/-- Settles O12: a word that decodes to a command decodes to a well formed one, which leaves `CMDERR`; a reserved word stands
nowhere in the program. -/
theorem cmdErrOnlyFromReservedWords : Obligations.CmdErrOnlyFromReservedWords := by
  intro s t hno hs
  refine ⟨fun hclear => ?_, hno.next hs⟩
  have hcommand {w : CmdWord} {cmds : List CmdWord} (hc : s.cmds = w :: cmds) : ∃ i, decode w = .command i :=
    hno w (hc ▸ List.mem_cons_self ..)
  obtain ⟨rest, hkind⟩ := step_kind hs
  cases hkind with
  | quiet => exact hclear
  | command _ _ w cmds i hc hd =>
    rw [execTo_cmderr, wellFormed_of_decode hd]
    exact (Bool.or_false _).trans hclear
  | reservedRd _ _ w cmds hc hd =>
    obtain ⟨i, hi⟩ := hcommand hc
    exact absurd (hi.symm.trans hd) nofun
  | reserved _ _ w cmds hc hd =>
    obtain ⟨i, hi⟩ := hcommand hc
    exact absurd (hi.symm.trans hd) nofun
  | answer a => exact (State.answerHash_cmderr a _).trans hclear
  | reset => rfl

/-- From `s` to `t` none of the three sticky flags is cleared (70_reset_and_hazards.md R250). -/
def State.StickyKept (s t : State) : Prop :=
  (s.keyv = true → t.keyv = true) ∧ (s.fatal = true → t.fatal = true) ∧ (s.cmderr = true → t.cmderr = true)

/-- No command clears a sticky flag: one of the key unit's flags, once set, makes the command leave the whole unit. -/
theorem execTo_stickyKept (i : Instr) (s : State) : s.StickyKept (execTo i s) := by
  refine ⟨fun hk => ?_, fun hf => ?_, fun he => by rw [execTo_cmderr, he, Bool.true_or]⟩
  · obtain ⟨-, hkeyv, -⟩ := execTo_keyUnitKept (.inl hk) i
    exact hkeyv.trans hk
  · obtain ⟨-, -, hfatal, -⟩ := execTo_keyUnitKept (.inr hf) i
    exact hfatal.trans hf

/-- Nor does an answer of the hash primitive. -/
theorem State.answerHash_stickyKept (a : HashAnswer) (s : State) : s.StickyKept (s.answerHash a) := by
  refine ⟨fun hk => ?_, fun hf => ?_, (State.answerHash_cmderr a s).trans⟩
  · cases a with
    | digest d => exact s.answerHash_digest_keyv d
    | unavailable => exact s.answerHash_unavailable_keyv.trans hk
  · cases a with
    | digest d => exact (s.answerHash_digest_fatal d).trans hf
    | unavailable => exact s.answerHash_unavailable_fatal

/-- Settles O16: of the kinds of step only the reset clears a sticky flag. -/
theorem onlyResetClearsStickyFlags : Obligations.OnlyResetClearsStickyFlags := by
  intro s t hs hnoreset
  change s.StickyKept t
  obtain ⟨rest, hkind⟩ := step_kind hs
  cases hkind with
  | quiet => exact ⟨id, id, id⟩
  | command _ _ w cmds i => exact execTo_stickyKept i { s with cmds := cmds, moves := rest }
  | reservedRd => exact ⟨id, id, fun _ => rfl⟩
  | reserved => exact ⟨id, id, fun _ => rfl⟩
  | answer a => exact State.answerHash_stickyKept a { s with moves := rest }
  | reset hm => exact absurd hm (hnoreset rest)

/-- Settles O17: with the key held no command writes the key unit, and by the invariant no answer is awaited that could. -/
theorem heldKeyIsImmutable : Obligations.HeldKeyIsImmutable := by
  intro s t hinv hs hnoreset hk
  obtain ⟨rest, hkind⟩ := step_kind hs
  cases hkind with
  | quiet => exact ⟨rfl, hk⟩
  | command _ _ w cmds i =>
    obtain ⟨hkey, hkeyv, -⟩ := execTo_keyUnitKept (s := { s with cmds := cmds, moves := rest }) (.inl hk) i
    exact ⟨hkey, hkeyv.trans hk⟩
  | reservedRd => exact ⟨rfl, hk⟩
  | reserved => exact ⟨rfl, hk⟩
  | answer a hm hp => exact absurd ((hinv.pendingUnanswered hp).1.symm.trans hk) nofun
  | reset hm => exact absurd hm (hnoreset rest)

end Sys2Proof.Machine
end

section
/-! PROOFS. The other family, the ports: moves that change nothing, reset, and the hang of an unanswered request
(70_reset_and_hazards.md R250, R256). -/

namespace Sys2Proof.Machine

/-- The host's move with no word to offer changes nothing (log entry 9). -/
theorem hostMove_of_no_word {s : State} (hc : s.cmds = []) : hostMove s = .next s := by
  simp [hostMove, hc]

/-- The host's move always has a next state. -/
theorem hostMove_next (s : State) : ∃ t, hostMove s = .next t := by
  cases hp : s.hpend with
  | true => exact ⟨s, hostMove_of_suspended hp⟩
  | false =>
    cases hc : s.cmds with
    | nil => exact ⟨s, hostMove_of_no_word hc⟩
    | cons w rest =>
      rw [hostMove_of_word hp hc, issueWord_eq]
      cases decode w with
      | command i => exact ⟨_, rfl⟩
      | reservedRd => exact ⟨_, rfl⟩
      | reserved => exact ⟨_, rfl⟩

/-- So has every move. -/
theorem makeMove_next (m : Move) (s : State) : ∃ t, makeMove m s = .next t := by
  cases m with
  | host => exact hostMove_next s
  | hash a =>
    simp only [makeMove, hashMove]
    split <;> exact ⟨_, rfl⟩
  | lateHash a => exact ⟨s, rfl⟩
  | rst => exact ⟨s.resetBlock, rfl⟩

/-- Settles O18: a step is some agent's move. -/
theorem everyStateSteps : Obligations.EveryStateSteps := by
  intro s
  cases hm : s.moves with
  | nil =>
    rw [step_of_no_move hm]
    exact hostMove_next s
  | cons m rest =>
    rw [step_of_move hm]
    exact makeMove_next m _

/-- Settles O13: a suspended block takes neither the host's word nor a command of a list. -/
theorem suspendedBlockTakesNoWord : Obligations.SuspendedBlockTakesNoWord :=
  ⟨fun _ _ => step_of_suspended, fun is _ hp => execAll_suspended hp is⟩

/-- A late answer only uses up its move (R250). -/
theorem step_of_lateHash {s : State} {a : HashAnswer} {ms : List Move} (hm : s.moves = .lateHash a :: ms) :
    step s = .next { s with moves := ms } :=
  step_of_move hm

/-- Settles O14: an answer does nothing where no command is suspended, and a late one nothing at all. -/
theorem unrequestedAnswerChangesNothing : Obligations.UnrequestedAnswerChangesNothing := by
  refine fun s a ms => ⟨fun hp hm => ?_, step_of_lateHash⟩
  rw [step_of_move hm]
  simp [makeMove, hashMove, hp]

/-- STATUS reads registers of the block alone, so it is zero after any reset. -/
theorem statusWord_resetBlock (s : State) : statusWord s.resetBlock = 0#32 := statusWord_reset

/-- Settles O15: the step is `resetBlock`, which copies the reset state but for the other agents' side. -/
theorem resetMoveRestoresBlock : Obligations.ResetMoveRestoresBlock := by
  intro s ms hm
  exact ⟨State.resetBlock { s with moves := ms }, step_of_move hm, rfl, rfl, rfl, rfl, rfl, rfl, rfl, rfl, rfl, rfl,
    statusWord_resetBlock _, rfl, rfl, rfl, rfl, rfl⟩

/-- A suspended block with no move to come but the host's repeats its state (log entry 9). -/
theorem step_of_unanswered {s : State} (hp : s.hpend = true) (hm : s.moves = []) : step s = .next s :=
  (step_of_no_move hm).trans (hostMove_of_suspended hp)

/-- A suspended block is not at the end of its run (R260). -/
theorem State.runEnded_of_suspended {s : State} (hp : s.hpend = true) : s.runEnded = false := by
  simp [State.runEnded, State.cmdReady, hp]

/-- No reset comes next where no move is listed. -/
theorem State.resetNext_of_no_move {s : State} (hm : s.moves = []) : s.resetNext = false := by
  simp [State.resetNext, hm]

/-- Settles O19: by induction on the number of steps, each of which repeats the state. -/
theorem unansweredRequestHangs : Obligations.UnansweredRequestHangs := by
  intro n s hp hm
  have hstep := step_of_unanswered hp hm
  have hgoing := State.runEnded_of_suspended hp
  induction n with
  | zero => exact ⟨run_zero s, by simp [runOutcome, hgoing]⟩
  | succ n ih =>
    obtain ⟨hrun, hnone⟩ := ih
    exact ⟨(run_succ n hstep).trans hrun,
      (runOutcome_step hgoing (State.resetNext_of_no_move hm) hstep n).trans hnone⟩

end Sys2Proof.Machine
end

section
/-! PROOFS. The other family, the data path: the key words (41_key_derivation.md R100), the slicer (44_bitfield_unpacker.md R161,
R162), the known answers of the cipher, and packed values through DECODE (45_decode_read.md R183). -/

namespace Sys2Proof.Machine

/-! The key words -/

/-- A key word is its 32 bits of the digest (R100). -/
theorem keyWord_eq_slice (d : Digest) {i : Nat} (h : i < 4) : keyWord d i = d.extractLsb' (224 - 32 * i) 32 := by
  have hoffset : 248 - 8 * (4 * i + 3) = 224 - 32 * i := by omega
  rw [keyWord, digestByte, digestByte, digestByte, digestByte,
    BitVec.extractLsb'_append_extractLsb'_eq_extractLsb' (by omega),
    BitVec.extractLsb'_append_extractLsb'_eq_extractLsb' (by omega),
    BitVec.extractLsb'_append_extractLsb'_eq_extractLsb' (by omega), hoffset]

/-- The key words make up the upper half of the digest (R100). -/
theorem keyWords_payload (d : Digest) : (keyWords d).payload = d.extractLsb' 128 128 := by
  rw [Words4.payload, keyWords, keyWord_eq_slice d (by decide), keyWord_eq_slice d (by decide), keyWord_eq_slice d (by decide),
    keyWord_eq_slice d (by decide), BitVec.extractLsb'_append_extractLsb'_eq_extractLsb' (by decide),
    BitVec.extractLsb'_append_extractLsb'_eq_extractLsb' (by decide),
    BitVec.extractLsb'_append_extractLsb'_eq_extractLsb' (by decide)]

/-- Settles O26: a key word is a slice of the digest, and its four bytes as a number are `keyWord_bytes`. -/
theorem keyWordsAreDigestHead : Obligations.KeyWordsAreDigestHead := by
  refine fun d => ⟨keyWords_payload d, fun i _ => ?_⟩
  rw [keyWord_bytes]
  ring

/-! The slicer -/

/-- The pad as a number (R161). -/
theorem padOf_eq (layout : List Nat) (p : Nat) : padOf layout p = p / 2 ^ layout.sum := Nat.shiftRight_eq_div_pow ..

/-- What stands above the fields of `ws` is the pad of `w :: ws` and its first field (R161). -/
theorem padOf_cons_add_fieldOf_zero (w : Nat) (ws : List Nat) (p : Nat) :
    padOf (w :: ws) p * 2 ^ w + fieldOf (w :: ws) p 0 = padOf ws p := by
  have hfield : fieldOf (w :: ws) p 0 = p / 2 ^ ws.sum % 2 ^ w := fieldOf_eq ..
  rw [hfield, padOf_eq, padOf_eq, List.sum_cons, Nat.add_comm w, pow_add, ← Nat.div_div_eq_div_mul]
  exact Nat.div_add_mod' ..

/-- Settles O51: by induction on the widths; the first field joins the pad above it to the pad of the other fields, whose values and
offsets are those of the shorter layout by definition. -/
theorem layoutPartitionsPayload : Obligations.LayoutPartitionsPayload := by
  intro layout p
  induction layout with
  | nil => simp [padOf]
  | cons w ws ih =>
    have htop : padOf (w :: ws) p * 2 ^ (w :: ws).sum + fieldOf (w :: ws) p 0 * 2 ^ fieldOffset (w :: ws) 0 =
        padOf ws p * 2 ^ ws.sum := by
      have hoffset : fieldOffset (w :: ws) 0 = ws.sum := rfl
      rw [← padOf_cons_add_fieldOf_zero w ws p, hoffset, List.sum_cons, pow_add, ← Nat.mul_assoc, ← Nat.add_mul]
    rw [List.length_cons, List.range_succ_eq_map, List.map_cons, List.map_map, List.sum_cons (l := List.map _ _), ← Nat.add_assoc,
      htop]
    exact ih

/-- Settles O52: `PAD` and `PHONE` are adjacent slices, from bit 80 to the top. -/
theorem unmaskedPhoneIsPadAndPhone : Obligations.UnmaskedPhoneIsPadAndPhone := by
  intro pt
  have htop := pt.payload.isLt
  rw [(unpack_sliced pt).pad, (unpack_sliced pt).phone, unpack_pt, BitVec.extractLsb'_toNat, BitVec.extractLsb'_toNat,
    Nat.shiftRight_eq_div_pow, Nat.shiftRight_eq_div_pow]
  omega

/-! The cipher -/

/-- Settles O49: each vector by evaluating its 32 rounds. -/
theorem cipherKnownAnswers : Obligations.CipherKnownAnswers := by
  refine ⟨?_, ?_, ?_, ?_, ?_, ?_, ?_, ?_⟩ <;> decide +kernel

/-! Packed values -/

/-- The four ciphertext words are the words of the accumulator (43_block_cipher.md R144). -/
theorem ctWords_eq_ofPayload (acc : Wide) : ctWords acc = Words4.ofPayload acc := by
  rw [ctWords, ctWord_eq_slice acc (by decide), ctWord_eq_slice acc (by decide), ctWord_eq_slice acc (by decide),
    ctWord_eq_slice acc (by decide)]
  rfl

/-- The words of the payload made of four words are those words. -/
theorem Words4.ofPayload_payload (p : Words4) : Words4.ofPayload p.payload = p := by
  have h0 : p.payload.extractLsb' 96 32 = p.w0 := by
    rw [Words4.payload]
    iterate 3 rw [BitVec.extractLsb'_append_eq_of_le (by decide)]
    exact BitVec.extractLsb'_eq_self
  have h1 : p.payload.extractLsb' 64 32 = p.w1 := by
    rw [Words4.payload]
    iterate 2 rw [BitVec.extractLsb'_append_eq_of_le (by decide)]
    exact BitVec.extractLsb'_append_eq_right
  have h2 : p.payload.extractLsb' 32 32 = p.w2 := by
    rw [Words4.payload, BitVec.extractLsb'_append_eq_of_le (by decide)]
    exact BitVec.extractLsb'_append_eq_right
  have h3 : p.payload.extractLsb' 0 32 = p.w3 := BitVec.extractLsb'_append_eq_right
  rw [Words4.ofPayload, h0, h1, h2, h3]

/-- Decrypting both blocks undoes encrypting them (R147). -/
theorem decryptWords_encryptWords (p key : Words4) : decryptWords (encryptWords p key) key = p := by
  simp only [decryptWords, decryptBlockOn_blk, encryptWords, decryptBlock_encryptBlock]

/-- The slices of a packed payload are the packed values (44_bitfield_unpacker.md R162). -/
theorem pack_slices (a : BitVec 8) (b : BitVec 40) (c d : BitVec 30) (e f : BitVec 10) :
    (pack a b c d e f).extractLsb' 120 8 = a ∧ (pack a b c d e f).extractLsb' 80 40 = b ∧
      (pack a b c d e f).extractLsb' 50 30 = c ∧ (pack a b c d e f).extractLsb' 20 30 = d ∧
      (pack a b c d e f).extractLsb' 10 10 = e ∧ (pack a b c d e f).extractLsb' 0 10 = f := by
  rw [pack]
  refine ⟨?_, ?_, ?_, ?_, ?_, BitVec.extractLsb'_append_eq_right⟩
  · iterate 5 rw [BitVec.extractLsb'_append_eq_of_le (by decide)]
    exact BitVec.extractLsb'_eq_self
  · iterate 4 rw [BitVec.extractLsb'_append_eq_of_le (by decide)]
    exact BitVec.extractLsb'_append_eq_right
  · iterate 3 rw [BitVec.extractLsb'_append_eq_of_le (by decide)]
    exact BitVec.extractLsb'_append_eq_right
  · iterate 2 rw [BitVec.extractLsb'_append_eq_of_le (by decide)]
    exact BitVec.extractLsb'_append_eq_right
  · rw [BitVec.extractLsb'_append_eq_of_le (by decide)]
    exact BitVec.extractLsb'_append_eq_right

/-- Settles O53: the ciphertext decrypts to the packed payload, and `unpack` takes its slices. -/
theorem packedFieldsAreRecovered : Obligations.PackedFieldsAreRecovered := by
  intro s phone settle pending bank nbfc hk hf hb ho hacc
  have hres : s.decodeSucceed.res = unpack (Words4.ofPayload (pack 0#8 phone settle pending bank nbfc)) := by
    rw [State.decodeSucceed_res, hacc, ctWords_eq_ofPayload, Words4.ofPayload_payload, decryptWords_encryptWords]
  have hsliced := unpack_sliced (Words4.ofPayload (pack 0#8 phone settle pending bank nbfc))
  rw [← hres] at hsliced
  have hpayload : s.decodeSucceed.res.pt.payload = pack 0#8 phone settle pending bank nbfc := by
    rw [hres, unpack_pt, Words4.payload_ofPayload]
  obtain ⟨hpad, hphone, hsettle, hpending, hbank, hnbfc⟩ := pack_slices 0#8 phone settle pending bank nbfc
  rw [← hpayload] at hpad hphone hsettle hpending hbank hnbfc
  have hzero := hsliced.pad.trans hpad
  refine ⟨s.decodeSucceed, (exec_decode_of_held hk).trans (congrArg _ (State.decodeStages_of_good hf hb ho)), rfl, hzero,
    hsliced.phone.trans hphone, hsliced.settle.trans hsettle, hsliced.pending.trans hpending, hsliced.bank.trans hbank,
    hsliced.nbfc.trans hnbfc, ?_⟩
  exact Bool.eq_false_iff.2 fun h => hsliced.padnz.1 h hzero

end Sys2Proof.Machine
end

section
/-! PROOFS. The other family, DECODE and RD: the failure path (60_exceptions.md R224, R226), DECODE issued twice
(45_decode_read.md R181), the STATUS word (10_state.md R37), and empty results (R185). -/

namespace Sys2Proof.Machine

/-! DECODE -/

/-- An invalid character comes first of a token's two faults (60_exceptions.md R226). -/
theorem State.decodeStages_of_badc {s : State} (hf : s.fatal = false) (hb : s.badc = true) :
    s.decodeStages = s.raise .invalidTokenCharacter := by
  simp [State.decodeStages, hf, hb]

/-- Then comes a value that does not fit. -/
theorem State.decodeStages_of_ovf {s : State} (hf : s.fatal = false) (hb : s.badc = false) (ho : s.ovf = true) :
    s.decodeStages = s.raise .tokenTooLong := by
  simp [State.decodeStages, hf, hb, ho]

/-- Settles O35: each fault makes stages 2 to 4 raise its error, which is the whole effect. -/
theorem decodeFailurePath : Obligations.DecodeFailurePath := by
  refine fun s => ⟨fun hf => ?_, fun hk hf hb => ?_, fun hk hf hb ho => ?_⟩
  · exact (exec_eq_next .decode s).trans (congrArg _ (execTo_decode_of_fatal hf))
  · exact (exec_decode_of_held hk).trans (congrArg _ (State.decodeStages_of_badc hf hb))
  · exact (exec_decode_of_held hk).trans (congrArg _ (State.decodeStages_of_ovf hf hb ho))

/-- Stages 2 to 4 leave what their tests read, so a second time they come to the same end, which only draws a new free value
(log entry 4). -/
theorem State.decodeStages_twice_visible (s : State) : s.decodeStages.decodeStages.visible = s.decodeStages.visible := by
  rcases s.decodeStages_cases with ⟨hf, e⟩ | ⟨hf, hb, e⟩ | ⟨hf, hb, ho, e⟩ | ⟨hf, hb, ho, e⟩ <;> rw [e]
  · rw [State.decodeStages_of_fatal ((s.raise_fatal _).trans hf)]
    rfl
  · rw [State.decodeStages_of_badc ((s.raise_fatal _).trans hf) ((s.raise_badc _).trans hb)]
    rfl
  · rw [State.decodeStages_of_ovf ((s.raise_fatal _).trans hf) ((s.raise_badc _).trans hb) ((s.raise_ovf _).trans ho)]
    rfl
  · rw [State.decodeStages_of_good (s.decodeSucceed_fatal.trans hf) (s.decodeSucceed_badc.trans hb)
      (s.decodeSucceed_ovf.trans ho)]
    rfl

/-- Settles O36: with the key unit settled both DECODEs are stages 2 to 4 alone. -/
theorem decodeTwiceIsDecodeOnce : Obligations.DecodeTwiceIsDecodeOnce := by
  intro s t hset h
  obtain rfl : t = s.decodeStages := (eq_execTo_of_exec h).trans (execTo_decode_of_settled hset)
  have hset' : s.decodeStages.keyv = true ∨ s.decodeStages.fatal = true :=
    hset.imp s.decodeStages_keyv.trans s.decodeStages_fatal.trans
  exact ⟨_, (exec_eq_next .decode _).trans (congrArg _ (execTo_decode_of_settled hset')), s.decodeStages_twice_visible⟩

/-! The STATUS word -/

/-- Bits 31 to 12 of STATUS are the twenty zero bits (10_state.md R37). -/
theorem statusWord_upper_zero (s : State) : (statusWord s).extractLsb' 12 20 = 0#20 := by
  rw [statusWord]
  iterate 10 rw [BitVec.extractLsb'_append_eq_of_le (by decide)]
  exact BitVec.extractLsb'_eq_self

/-- Settles O38: a bit is that of the part of the concatenation it falls in. -/
theorem statusWordLayout : Obligations.StatusWordLayout := by
  intro s
  refine ⟨?_, statusWord_bit_valid s, statusWord_bits_err s, ?_, ?_, ?_, ?_, ?_, ?_, ?_, statusWord_upper_zero s⟩ <;>
    · rw [statusWord]
      simp only [BitVec.getLsbD_append]
      simp

/-! RD of an empty result -/

/-- The selects of the result registers: the fields, and the plaintext words (20_memory.md R61). -/
def resultSelects : List Select :=
  [.phoneHi, .phoneLo, .settle, .pending, .bank, .nbfc, .pad, .pt0, .pt1, .pt2, .pt3]

/-- They are the select numbers 1 to 7 and 12 to 15. -/
theorem exists_resultSelect {sel : Byte} (h : (1 ≤ sel.toNat ∧ sel.toNat ≤ 7) ∨ (12 ≤ sel.toNat ∧ sel.toNat ≤ 15)) :
    ∃ r ∈ resultSelects, r.number = sel := by
  have table : ∀ b : Byte, (1 ≤ b.toNat ∧ b.toNat ≤ 7) ∨ (12 ≤ b.toNat ∧ b.toNat ≤ 15) →
    ∃ r ∈ resultSelects, r.number = b := by decide +kernel
  exact table sel h

/-- Of an empty result each reads 0 (45_decode_read.md R185). -/
theorem selectWord_of_empty {s : State} (h : s.res = Results.empty) : ∀ r ∈ resultSelects, selectWord s r = 0#32 := by
  simp [resultSelects, selectWord, h, Results.empty, Words4.zero]

/-- Settles O39: by the invariant the result is empty, and the select is one of the result registers'. -/
theorem emptyResultReadsZero : Obligations.EmptyResultReadsZero := by
  intro s sel hinv hvalid hsel
  obtain ⟨r, hr, rfl⟩ := exists_resultSelect hsel
  exact exec_rd_number r (selectWord_of_empty (hinv.emptyUnlessValid hvalid) r hr)

end Sys2Proof.Machine
end

section
/-! PROOFS. The other family, the key before it is held: no step reads it (10_state.md R21; log entry 2). -/

namespace Sys2Proof.Machine

/-- `s` with the key words `k`. -/
def State.withKey (k : Words4) (s : State) : State := { s with k := k }

/-- `t'` is `t`, or differs from it only in a key that is not held. -/
def State.AgreeButUnheldKey (k : Words4) (t t' : State) : Prop := t' = t ∨ (t.keyv = false ∧ t' = t.withKey k)

/-- Both outcomes are next states, which agree but for a key that is not held. -/
def OutcomesAgree (k : Words4) (o o' : StepResult) : Prop :=
  ∃ t t', o = .next t ∧ o' = .next t' ∧ t.AgreeButUnheldKey k t'

/-- With `FATAL` set the stages do not come to the cipher, so they do not read the key. -/
theorem State.decodeStages_withKey {s : State} (h : s.fatal = true) (k : Words4) :
    (s.withKey k).decodeStages = s.decodeStages.withKey k := by
  rw [State.decodeStages_of_fatal h, State.decodeStages_of_fatal (s := s.withKey k) h]
  rfl

/-- An answer replaces the key, or sets `FATAL` and leaves it. -/
theorem State.answerHash_withKey {s : State} (hk : s.keyv = false) (k : Words4) (a : HashAnswer) :
    (s.answerHash a).AgreeButUnheldKey k ((s.withKey k).answerHash a) := by
  cases a with
  | digest d => exact .inl rfl
  | unavailable =>
    refine .inr ⟨s.answerHash_unavailable_keyv.trans hk, ?_⟩
    cases hp : s.pendcmd with
    | kdf => rw [State.answerHash_kdf hp, State.answerHash_kdf (s := s.withKey k) hp]; rfl
    | decode =>
      rw [State.answerHash_decode hp, State.answerHash_decode (s := s.withKey k) hp, ← State.decodeStages_withKey rfl]
      rfl

/-- A derivation does not read the key it is to load. -/
theorem State.keyDerive_withKey {s : State} (hk : s.keyv = false) (k : Words4) (p : PendCmd) :
    (s.keyDerive p).AgreeButUnheldKey k ((s.withKey k).keyDerive p) := by
  rcases s.keyDerive_cases p with ⟨a, rest, hm, -⟩ | ⟨hwait, -⟩
  · rw [State.keyDerive_answered hm, State.keyDerive_answered (s := s.withKey k) hm]
    exact State.answerHash_withKey (s := { s.requestHash p with moves := rest }) hk k a
  · have hstay : s.keyDerive p = s.requestHash p := State.awaitHash_waiting (s := s.requestHash p) hwait
    have hstay' : (s.withKey k).keyDerive p = (s.withKey k).requestHash p :=
      State.awaitHash_waiting (s := (s.withKey k).requestHash p) hwait
    rw [hstay, hstay']
    exact .inr ⟨hk, rfl⟩

/-- No command reads the key while it is not held: DECODE then derives it, or has failed. -/
theorem execTo_withKey {s : State} (hk : s.keyv = false) (k : Words4) (i : Instr) :
    (execTo i s).AgreeButUnheldKey k (execTo i (s.withKey k)) := by
  cases i with
  | nop => exact .inr ⟨hk, rfl⟩
  | start => exact .inr ⟨hk, rfl⟩
  | push c =>
    refine .inr ⟨(s.pushChar_keyv c).trans hk, ?_⟩
    simp only [execTo, State.pushChar]
    cases digit c <;> rfl
  | kdf =>
    rcases s.settled_or_open with hset | ⟨-, hf⟩
    · rw [execTo_kdf_of_settled hset, execTo_kdf_of_settled (s := s.withKey k) hset]
      exact .inr ⟨hk, rfl⟩
    · rw [execTo_kdf_of_open hk hf, execTo_kdf_of_open (s := s.withKey k) hk hf]
      exact State.keyDerive_withKey hk k .kdf
  | decode =>
    rcases s.settled_or_open with hset | ⟨-, hf⟩
    · have hf : s.fatal = true := hset.resolve_left (by simp [hk])
      rw [execTo_decode_of_settled hset, execTo_decode_of_settled (s := s.withKey k) hset]
      exact .inr ⟨s.decodeStages_keyv.trans hk, State.decodeStages_withKey hf k⟩
    · rw [execTo_decode_of_open hk hf, execTo_decode_of_open (s := s.withKey k) hk hf]
      exact State.keyDerive_withKey hk k .decode
  | rd sel =>
    simp only [execTo]
    cases selectOf sel with
    | none => exact .inr ⟨hk, rfl⟩
    | some r => exact .inr ⟨hk, by cases r <;> rfl⟩

/-- Nor does the word of any other decoding. -/
theorem issueWord_withKey {s : State} (hk : s.keyv = false) (k : Words4) (w : CmdWord) :
    OutcomesAgree k (issueWord w s) (issueWord w (s.withKey k)) := by
  rw [issueWord_eq, issueWord_eq]
  cases decode w with
  | command i => exact ⟨_, _, rfl, rfl, execTo_withKey hk k i⟩
  | reservedRd => exact ⟨_, _, rfl, rfl, .inr ⟨hk, rfl⟩⟩
  | reserved => exact ⟨_, _, rfl, rfl, .inr ⟨hk, rfl⟩⟩

/-- Two blocks that differ only in the key take the host's word, or not, alike. -/
theorem hostMove_withKey {s : State} (hk : s.keyv = false) (k : Words4) :
    OutcomesAgree k (hostMove s) (hostMove (s.withKey k)) := by
  cases hp : s.hpend with
  | true => exact ⟨_, _, hostMove_of_suspended hp, hostMove_of_suspended (s := s.withKey k) hp, .inr ⟨hk, rfl⟩⟩
  | false =>
    cases hc : s.cmds with
    | nil => exact ⟨_, _, hostMove_of_no_word hc, hostMove_of_no_word (s := s.withKey k) hc, .inr ⟨hk, rfl⟩⟩
    | cons w rest =>
      rw [hostMove_of_word hp hc, hostMove_of_word (s := s.withKey k) hp hc]
      exact issueWord_withKey (s := { s with cmds := rest }) hk k w

/-- So they do with every move. -/
theorem makeMove_withKey {s : State} (hk : s.keyv = false) (k : Words4) (m : Move) :
    OutcomesAgree k (makeMove m s) (makeMove m (s.withKey k)) := by
  cases m with
  | host => exact hostMove_withKey hk k
  | hash a =>
    cases hp : s.hpend with
    | true => exact ⟨_, _, if_pos hp, if_pos hp, State.answerHash_withKey hk k a⟩
    | false => exact ⟨_, _, if_neg (by simp [hp]), if_neg (by simp [State.withKey, hp]), .inr ⟨hk, rfl⟩⟩
  | lateHash a => exact ⟨_, _, rfl, rfl, .inr ⟨hk, rfl⟩⟩
  | rst => exact ⟨_, _, rfl, rfl, .inl rfl⟩

/-- Settles O45: the step is a move of the same agent from both states. -/
theorem unheldKeyIsUnobservable : Obligations.UnheldKeyIsUnobservable := by
  intro s t k hk hs
  have hagree : OutcomesAgree k (step s) (step (s.withKey k)) := by
    cases hm : s.moves with
    | nil =>
      rw [step_of_no_move hm, step_of_no_move (s := s.withKey k) hm]
      exact hostMove_withKey hk k
    | cons m rest =>
      rw [step_of_move hm, step_of_move (s := s.withKey k) hm]
      exact makeMove_withKey (s := { s with moves := rest }) hk k m
  obtain ⟨u, t', hu, ht', h⟩ := hagree
  obtain rfl : t = u := Host.Outcome.next.inj (hs.symm.trans hu)
  exact ⟨t', ht', h⟩

end Sys2Proof.Machine
end

section
/-! PROOFS. The other family, runs: a suspension that is answered ends, and a program whose requests are answered ends
(70_reset_and_hazards.md R256, R260). -/

namespace Sys2Proof.Machine

/-! The answer that ends a suspension -/

/-- A suspended block whose awaited answer stands in the moves takes it, after as many steps as moves come before; each of those is
the host's, which finds the block not ready, or a late answer (41_key_derivation.md R103). -/
theorem run_to_awaitedAnswer {ms : List Move} {a : HashAnswer} (h : awaitedAnswer ms = some a) {s : State} (hp : s.hpend = true)
    (hm : s.moves = ms) :
    ∃ pre rest, ms = pre ++ .hash a :: rest ∧
      Host.Core.run Sys2Proof.core (pre.length + 1) s = .next (State.answerHash a { s with moves := rest }) := by
  induction ms generalizing s with
  | nil => exact absurd h nofun
  | cons m ms ih =>
    have waits (hstep : step s = .next { s with moves := ms }) (hrest : awaitedAnswer ms = some a) :
        ∃ pre rest, m :: ms = pre ++ .hash a :: rest ∧
          Host.Core.run Sys2Proof.core (pre.length + 1) s = .next (State.answerHash a { s with moves := rest }) := by
      obtain ⟨pre, rest, hsplit, hrun⟩ := ih hrest (s := { s with moves := ms }) hp rfl
      exact ⟨m :: pre, rest, congrArg (m :: ·) hsplit, (run_succ _ hstep).trans hrun⟩
    cases m with
    | host => exact waits (step_of_suspended hp (.inr hm)) h
    | lateHash b => exact waits (step_of_lateHash hm) h
    | hash b =>
      obtain rfl : b = a := Option.some.inj h
      exact ⟨[], ms, rfl, run_succ 0 (step_answers hp hm)⟩
    | rst => exact absurd h nofun

/-! What a step uses up -/

/-- A derivation uses up at most the answer. -/
theorem State.keyDerive_moves (p : PendCmd) (s : State) : (s.keyDerive p).moves <:+ s.moves := by
  rcases s.keyDerive_cases p with ⟨a, rest, hm, e⟩ | ⟨-, e⟩ <;> rw [e]
  · rw [State.answerHash_moves, hm]
    exact List.suffix_cons ..
  · exact List.suffix_rfl

/-- A command uses up at most the answer to its own request. -/
theorem execTo_moves (i : Instr) (s : State) : (execTo i s).moves <:+ s.moves := by
  rcases s.settled_or_open with hset | ⟨hk, hf⟩
  · obtain ⟨-, -, -, -, -, -, hmoves⟩ := execTo_keyUnitKept hset i
    rw [hmoves]
  · cases i with
    | nop => exact List.suffix_rfl
    | start => exact List.suffix_rfl
    | push c => rw [execTo_push, State.pushChar_moves]
    | kdf =>
      rw [execTo_kdf_of_open hk hf]
      exact s.keyDerive_moves .kdf
    | decode =>
      rw [execTo_decode_of_open hk hf]
      exact s.keyDerive_moves .decode
    | rd sel =>
      obtain ⟨-, -, -, -, -, -, hmoves⟩ := execTo_rd_keyUnitKept sel s
      rw [hmoves]

/-- A step uses up the next move, and perhaps the answer after it. -/
theorem step_moves {s t : State} (h : step s = .next t) : t.moves <:+ s.moves.tail := by
  have hkind := step_kind_tail h
  generalize s.moves.tail = rest at hkind
  cases hkind with
  | quiet => exact List.suffix_rfl
  | command _ _ w cmds i => exact execTo_moves i { s with cmds := cmds, moves := rest }
  | reservedRd => exact List.suffix_rfl
  | reserved => exact List.suffix_rfl
  | answer a => rw [State.answerHash_moves]
  | reset => exact List.suffix_rfl

/-- Issuing a word leaves the words after it. -/
theorem issueWord_cmds {w : CmdWord} {s t : State} (h : issueWord w s = .next t) : t.cmds = s.cmds := by
  rw [issueWord_eq] at h
  split at h <;> obtain rfl := Host.Outcome.next.inj h
  · exact execTo_cmds _ s
  · rfl
  · rfl

/-- With no other agent to move, a step of a ready block takes the host's next word. -/
theorem step_takes_word {s t : State} {w : CmdWord} {rest : List CmdWord} (hm : s.moves = []) (hp : s.hpend = false)
    (hc : s.cmds = w :: rest) (hs : step s = .next t) : t.cmds = rest := by
  rw [step_of_no_move hm, hostMove_of_word hp hc] at hs
  exact issueWord_cmds hs

/-! A program whose requests are answered -/

/-- No step leaves more words to issue. -/
theorem step_cmds_length_le {s t : State} (hs : step s = .next t) : t.cmds.length ≤ s.cmds.length := by
  rcases step_cmds hs with e | ⟨w, e⟩ <;> rw [e]
  exact Nat.le_succ _

/-- The moves and the words still to come: what a run uses up. -/
def State.pending (s : State) : Nat := s.moves.length + s.cmds.length

/-- A run that has not ended uses up a move or, where none is listed, a word: the block is then ready, since a standing request is
answered. -/
theorem pending_lt_of_step {s t : State} (ha : HashAnswers s) (he : s.runEnded = false) (hs : step s = .next t) :
    t.pending < s.pending := by
  have hmoves := (step_moves hs).length_le
  have hcmds := step_cmds_length_le hs
  unfold State.pending
  cases hm : s.moves with
  | cons m ms =>
    rw [hm, List.tail_cons] at hmoves
    rw [List.length_cons]
    omega
  | nil =>
    have hp : s.hpend = false := by
      refine Bool.eq_false_iff.2 fun hp => ?_
      obtain ⟨a, hawait, -⟩ := ha.standing hp
      rw [hm] at hawait
      exact absurd hawait nofun
    cases hc : s.cmds with
    | nil => simp [State.runEnded, State.cmdReady, hp, hc] at he
    | cons w rest =>
      rw [hm, List.tail_nil] at hmoves
      rw [step_takes_word hm hp hc hs, List.length_cons]
      omega

/-- No reset comes next where none comes at all. -/
theorem NoReset.resetNext {s : State} (h : NoReset s) : s.resetNext = false := by
  unfold State.resetNext
  split
  · rfl
  · rfl
  · rfl
  · rfl
  · next hm => exact absurd rfl (h .rst (hm ▸ List.mem_cons_self ..))

theorem NoReset.next {s t : State} (h : NoReset s) (hs : step s = .next t) : NoReset t := fun m hm =>
  h m (List.mem_of_mem_tail ((step_moves hs).subset hm))

/-- A run whose requests are answered and that no reset breaks off has an outcome: by induction on what it uses up (R260). -/
theorem exists_runOutcome (s : State) (ha : HashAnswers s) (hr : NoReset s) : ∃ n o, runOutcome n s = some o := by
  induction hn : s.pending using Nat.strong_induction_on generalizing s with
  | _ _ ih =>
    cases he : s.runEnded with
    | true => exact ⟨0, s.outcome, runOutcome_ended he 0⟩
    | false =>
      obtain ⟨t, hs⟩ := everyStateSteps s
      obtain ⟨n, o, hrun⟩ := ih _ (hn ▸ pending_lt_of_step ha he hs) t (RequestsAnswered.next ha hs) (hr.next hs) rfl
      exact ⟨n + 1, o, (runOutcome_step he hr.resetNext hs n).trans hrun⟩

/-- Settles O20: the standing request's answer stands in the moves, and the run reaches it; a program's run uses up its moves and
words. -/
theorem answeredRequestResumes : Obligations.AnsweredRequestResumes := by
  refine ⟨fun s hp => ⟨fun ha => ?_, fun d ha => ?_⟩, fun program s ha hr => ?_⟩
  · obtain ⟨a, hawait, -⟩ := ha.standing hp
    obtain ⟨pre, rest, hsplit, hrun⟩ := run_to_awaitedAnswer hawait hp rfl
    exact ⟨pre, a, rest, hsplit, hrun, State.answerHash_hpend a _, State.answerHash_cmds a _⟩
  · obtain ⟨a, hawait, rfl⟩ := ha.standing hp
    obtain ⟨pre, rest, -, hrun⟩ := run_to_awaitedAnswer hawait hp rfl
    exact ⟨_, _, hrun, State.answerHash_hpend _ _, State.answerHash_digest_keyv d _, State.answerHash_digest_k d _⟩
  · obtain ⟨n, o, hrun⟩ := exists_runOutcome (s.launch program) ha hr
    exact ⟨o, n, hrun⟩

end Sys2Proof.Machine
end

section
/-! PROOFS. The other family, whole tokens: the function of the source (45_decode_read.md R180, R182), the run of the canonical
sequence (R190), and leading `a` symbols (42_base62_transcoder.md R129). -/

namespace Sys2Proof.Machine

/-! Leading `a` symbols -/

/-- A zero digit appended to an empty accumulator changes nothing. -/
theorem State.pushChar_a_of_zero {s : State} (h : s.acc = 0#128) : s.pushChar 0x61#8 = s := by
  have ha : digit 0x61#8 = some 0 := by decide
  have hacc : BitVec.ofNat 128 (s.acc.toNat * Config.radix + 0) = s.acc := by rw [h]; rfl
  have hovf : (s.ovf || overflows (s.acc.toNat * Config.radix + 0)) = s.ovf := by rw [h]; exact Bool.or_false _
  rw [State.pushChar_of_digit ha, State.appendDigit, hacc, hovf]

/-- Nor does any number of them before a token. -/
theorem State.pushAll_replicate_a {s : State} (h : s.acc = 0#128) (n : Nat) (tok : List Byte) :
    s.pushAll (List.replicate n 0x61#8 ++ tok) = s.pushAll tok := by
  induction n with
  | zero => rfl
  | succ n ih => rw [List.replicate_succ, List.cons_append, State.pushAll, State.pushChar_a_of_zero h, ih]

/-- The state after START and a token's PUSH commands. -/
def State.streamed (tok : List Byte) (s : State) : State := s.clearToken.pushAll tok

@[simp] theorem State.streamed_k (tok : List Byte) (s : State) : (s.streamed tok).k = s.k := by
  rw [State.streamed, State.pushAll_frame, State.clearToken_k]

@[simp] theorem State.streamed_keyv (tok : List Byte) (s : State) : (s.streamed tok).keyv = s.keyv := by
  rw [State.streamed, State.pushAll_frame, State.clearToken_keyv]

@[simp] theorem State.streamed_fatal (tok : List Byte) (s : State) : (s.streamed tok).fatal = s.fatal := by
  rw [State.streamed, State.pushAll_frame, State.clearToken_fatal]

@[simp] theorem State.streamed_hpend (tok : List Byte) (s : State) : (s.streamed tok).hpend = s.hpend := by
  rw [State.streamed, State.pushAll_frame, State.clearToken_hpend]

@[simp] theorem State.streamed_rsps (tok : List Byte) (s : State) : (s.streamed tok).rsps = s.rsps := by
  rw [State.streamed, State.pushAll_frame, State.clearToken_rsps]

/-- A ready block takes START and every PUSH. -/
theorem execAll_token (tok : List Byte) {s : State} (hp : s.hpend = false) :
    execAll (.start :: tok.map .push) s = .next (s.streamed tok) :=
  (execAll_cons hp _ _).trans (execAll_map_push tok hp)

/-- Settles O58: START empties the accumulator, where the leading symbols are lost. -/
theorem leadingZeroSymbolsAreIgnored : Obligations.LeadingZeroSymbolsAreIgnored := by
  intro n tok s hp
  rw [execAll_token _ hp, execAll_token _ hp, State.streamed, State.pushAll_replicate_a s.clearToken_acc, State.streamed]

/-! DECODE of a streamed token -/

/-- `BADC` after a token says that it has no digit string (R125 (a)). -/
theorem State.streamed_badc_iff (tok : List Byte) (s : State) : (s.streamed tok).badc = true ↔ tokenDigits tok = none := by
  simp [State.streamed, State.pushAll_badc, tokenDigits_eq_none]

/-- DECODE's stages on a streamed token raise the error of `Decode62`, or decrypt its value (45_decode_read.md R182). -/
theorem State.decodeStages_streamed (tok : List Byte) {s : State} (hf : s.fatal = false) :
    (∃ e, decode62 tok = .error e ∧ (s.streamed tok).decodeStages = (s.streamed tok).raise e) ∨
    ∃ v, decode62 tok = .ok v ∧ (s.streamed tok).acc = v ∧
      (s.streamed tok).decodeStages = (s.streamed tok).decodeSucceed := by
  have hfatal : (s.streamed tok).fatal = false := (s.streamed_fatal tok).trans hf
  cases hds : tokenDigits tok with
  | none =>
    have herror : decode62 tok = .error .invalidTokenCharacter := by rw [decode62, hds]
    exact .inl ⟨_, herror, State.decodeStages_of_badc hfatal ((s.streamed_badc_iff tok).2 hds)⟩
  | some ds =>
    have hbadc : (s.streamed tok).badc = false :=
      Bool.eq_false_iff.2 fun h => absurd (hds.symm.trans ((s.streamed_badc_iff tok).1 h)) nofun
    obtain ⟨hacc, hovf⟩ := State.pushAll_clearToken hds s
    by_cases hbig : 2 ^ 128 ≤ digitsValue ds
    · exact .inl ⟨_, (decode62_eq_tokenTooLong_iff hds).2 hbig, State.decodeStages_of_ovf hfatal hbadc (hovf.2 hbig)⟩
    · have hfits : (s.streamed tok).ovf = false := Bool.eq_false_iff.2 fun h => hbig (hovf.1 h)
      exact .inr ⟨_, (decode62_of_digits hds).trans (if_neg hbig),
        BitVec.eq_of_toNat_eq (hacc.trans (BitVec.toNat_ofNat ..).symm), State.decodeStages_of_good hfatal hbadc hfits⟩

/-- A state shows the outcome of a decode: all fields, or an empty result with the error's code (R180). -/
def State.Shows (o : Except DecodeError Results) (t : State) : Prop :=
  match o with
  | .ok r => t.valid = true ∧ t.err = 0#3 ∧ t.res = r
  | .error e => t.valid = false ∧ t.err = e.code ∧ t.res = Results.empty

/-- DECODE of a streamed token shows the source's function of the token under the held key. -/
theorem State.decodeStages_streamed_shows (tok : List Byte) {key : Words4} {s : State} (hf : s.fatal = false)
    (hkey : s.k = key) : (s.streamed tok).decodeStages.Shows (decodeToken key tok) := by
  rcases State.decodeStages_streamed tok hf with ⟨e, hd, hstages⟩ | ⟨v, hd, hacc, hstages⟩ <;> rw [hstages, decodeToken, hd]
  · exact ⟨rfl, rfl, rfl⟩
  · exact ⟨rfl, rfl, by rw [State.decodeSucceed_res, hacc, State.streamed_k, hkey]⟩

/-- START, a token and DECODE with the key held run to DECODE's stages on the streamed token. -/
theorem execAll_decodeTokenCmds (tok : List Byte) {s : State} (hk : s.keyv = true) (hp : s.hpend = false) :
    execAll (decodeTokenCmds tok) s = .next (s.streamed tok).decodeStages := by
  have hready : (s.streamed tok).hpend = false := (s.streamed_hpend tok).trans hp
  have hheld : (s.streamed tok).keyv = true := (s.streamed_keyv tok).trans hk
  rw [decodeTokenCmds, token, pushes, execAll_append _ (execAll_token tok hp) hready, execAll_cons hready,
    execTo_decode_of_settled (.inl hheld), execAll_nil]

/-! The canonical sequence -/

/-- The selects of RDFIELDS, in order (30_encoding.md R90). -/
def fieldSelects : List Select := [.status, .phoneHi, .phoneLo, .settle, .pending, .bank, .nbfc, .pad]

theorem rdFields_eq : rdFields = fieldSelects.map rdSelect := rfl

/-- RD of a named select is a command. -/
theorem rdSelect_wellFormed (r : Select) : (rdSelect r).wellFormed = true := by cases r <;> decide

/-- The canonical sequence is made of commands, so that its words decode to them. -/
theorem canonicalSequence_wellFormed {withKdf : Bool} {tok : List Byte} {i : Instr} (h : i ∈ canonicalSequence withKdf tok) :
    i.wellFormed = true := by
  rw [canonicalSequence, decodeTokenCmds, token, pushes, rdFields_eq] at h
  simp only [List.mem_append, List.mem_ite_nil_right, List.mem_cons, List.mem_map, List.not_mem_nil, or_false] at h
  rcases h with (⟨-, rfl⟩ | (rfl | ⟨c, -, rfl⟩) | rfl) | ⟨r, -, rfl⟩
  · rfl
  · rfl
  · rfl
  · rfl
  · exact rdSelect_wellFormed r

/-- The state after the reads of RDFIELDS. -/
def State.readFields (s : State) : State := { s with rsps := s.rsps ++ fieldSelects.map (selectWord s) }

/-- With the key held the leading KDF does nothing, and the sequence decodes the token and reads the fields. -/
theorem execAll_canonicalSequence (withKdf : Bool) (tok : List Byte) {s : State} (hk : s.keyv = true) (hp : s.hpend = false) :
    execAll (canonicalSequence withKdf tok) s = .next (s.streamed tok).decodeStages.readFields := by
  have hready : (s.streamed tok).decodeStages.hpend = false := by simpa using hp
  have hnokdf : execAll (decodeTokenCmds tok ++ rdFields) s = .next (s.streamed tok).decodeStages.readFields := by
    rw [execAll_append _ (execAll_decodeTokenCmds tok hk hp) hready, rdFields_eq, execAll_rdSelects fieldSelects hready,
      State.readFields]
  cases withKdf with
  | false => exact hnokdf
  | true =>
    rw [canonicalSequence, if_pos rfl, List.append_assoc, List.singleton_append, execAll_cons hp,
      execTo_kdf_of_settled (.inl hk)]
    exact hnokdf

/-- At the end of a run without responses before, the eight words read are those of the final state: a word reads the block's
elements alone. -/
theorem State.readFields_outcome_responses {t : State} (h : t.rsps = []) :
    t.readFields.outcome.responses = fieldSelects.map (selectWord t.readFields.outcome.final) := by
  have hwords : t.readFields.outcome.responses = t.rsps ++ fieldSelects.map (selectWord t) := rfl
  rw [hwords, h, List.nil_append]
  rfl

/-- The run of the canonical sequence with the key held, the host alone moving (R190, R260). -/
theorem runOutcome_canonicalSequence (withKdf : Bool) (tok : List Byte) {s : State} (hk : s.keyv = true) (hp : s.hpend = false)
    (hm : s.moves = []) :
    runOutcome (canonicalSequence withKdf tok).length { s with cmds := (canonicalSequence withKdf tok).map encode } =
      some (s.streamed tok).decodeStages.readFields.outcome :=
  runOutcome_of_execAll (fun _ hi => decode_encode (canonicalSequence_wellFormed hi)) hm hp
    (execAll_canonicalSequence withKdf tok hk hp) (by simpa [State.readFields] using hp)

/-- Settles O55: the streamed token's DECODE shows the function, and the run of the canonical sequence, launched with no response,
comes to the same state with the eight words delivered. -/
theorem tokenDecodeMatchesSource : Obligations.TokenDecodeMatchesSource := by
  rintro tok key s ⟨hk, hf, hkey⟩ hp
  refine ⟨⟨_, execAll_decodeTokenCmds tok hk hp, State.decodeStages_streamed_shows tok hf hkey⟩, fun hm withKdf => ?_⟩
  have hshows : ((s.launch []).streamed tok).decodeStages.Shows (decodeToken key tok) :=
    State.decodeStages_streamed_shows tok hf hkey
  have hrsps : ((s.launch []).streamed tok).decodeStages.rsps = [] := by simp [State.launch]
  exact ⟨_, ⟨_, runOutcome_canonicalSequence withKdf tok (s := s.launch []) hk hp hm⟩,
    State.readFields_outcome_responses hrsps, hshows⟩

end Sys2Proof.Machine
end
